-- ==== Sys2Proof/Word.lean ====
section
/-!
DEFINITION. The machine's words: bytes, 12-bit addresses, 16-bit instruction words, 4-bit register numbers.
Every value is unsigned and no operation sign-extends (spec/00_scope.md R11).
-/

namespace Sys2Proof

/-- An 8-bit unsigned value: a register, a timer, a memory cell (10_state.md R31, R40; 20_memory.md R70). -/
abbrev Byte := BitVec 8

/-- A 12-bit byte address: `PC`, `I`, a return address (10_state.md R35, R37, R38). -/
abbrev Addr := BitVec 12

/-- A 16-bit instruction word (30_encoding.md R100). -/
abbrev Word := BitVec 16

/-- A 4-bit register number `x` or `y` (30_encoding.md R102); a key code has the same width (10_state.md R51). -/
abbrev Reg := BitVec 4

end Sys2Proof
end

