-- ==== Sys2Proof/Syntax.lean ====
section
/-!
DEFINITION. The instruction set: one constructor per row of spec/opcode_table.json, in the order of 30_encoding.md R110.
`x` and `y` are register numbers, `n` a row count, `nn` a byte immediate, `nnn` an absolute address (R102).
-/

namespace Sys2Proof

/-- The 34 instructions of 30_encoding.md R110. -/
inductive Instr where
  /-- `00E0` CLS (R251). -/
  | cls
  /-- `00EE` RET (R161). -/
  | ret
  /-- `1nnn` JP nnn (R162). -/
  | jp (nnn : Addr)
  /-- `2nnn` CALL nnn (R163). -/
  | call (nnn : Addr)
  /-- `3xnn` SE Vx, nn (R181). -/
  | seVxNn (x : Reg) (nn : Byte)
  /-- `4xnn` SNE Vx, nn (R182). -/
  | sneVxNn (x : Reg) (nn : Byte)
  /-- `5xy0` SE Vx, Vy (R183). -/
  | seVxVy (x y : Reg)
  /-- `6xnn` LD Vx, nn (R191). -/
  | ldVxNn (x : Reg) (nn : Byte)
  /-- `7xnn` ADD Vx, nn (R192). -/
  | addVxNn (x : Reg) (nn : Byte)
  /-- `8xy0` LD Vx, Vy (R193). -/
  | ldVxVy (x y : Reg)
  /-- `8xy1` OR Vx, Vy (R194). -/
  | or (x y : Reg)
  /-- `8xy2` AND Vx, Vy (R195). -/
  | and (x y : Reg)
  /-- `8xy3` XOR Vx, Vy (R196). -/
  | xor (x y : Reg)
  /-- `8xy4` ADD Vx, Vy (R197). -/
  | addVxVy (x y : Reg)
  /-- `8xy5` SUB Vx, Vy (R198). -/
  | sub (x y : Reg)
  /-- `8xy6` SHR Vx (R199); the word's `y` field is kept, and ignored by the meaning (R103, log entry 13). -/
  | shr (x y : Reg)
  /-- `8xy7` SUBN Vx, Vy (R200). -/
  | subn (x y : Reg)
  /-- `8xyE` SHL Vx (R201); the word's `y` field is kept, and ignored by the meaning (R103, log entry 13). -/
  | shl (x y : Reg)
  /-- `9xy0` SNE Vx, Vy (R184). -/
  | sneVxVy (x y : Reg)
  /-- `Annn` LD I, nnn (R231). -/
  | ldI (nnn : Addr)
  /-- `Bnnn` JP V0, nnn (R164). -/
  | jpV0 (nnn : Addr)
  /-- `Cxnn` RND Vx, nn (R202). -/
  | rnd (x : Reg) (nn : Byte)
  /-- `Dxyn` DRW Vx, Vy, n (R252). -/
  | drw (x y : Reg) (n : BitVec 4)
  /-- `Ex9E` SKP Vx (R271). -/
  | skp (x : Reg)
  /-- `ExA1` SKNP Vx (R272). -/
  | sknp (x : Reg)
  /-- `Fx07` LD Vx, DT (R275). -/
  | ldVxDt (x : Reg)
  /-- `Fx0A` LD Vx, K (R273). -/
  | ldVxK (x : Reg)
  /-- `Fx15` LD DT, Vx (R276). -/
  | ldDtVx (x : Reg)
  /-- `Fx18` LD ST, Vx (R277). -/
  | ldStVx (x : Reg)
  /-- `Fx1E` ADD I, Vx (R233). -/
  | addIVx (x : Reg)
  /-- `Fx29` LD F, Vx (R234). -/
  | ldFVx (x : Reg)
  /-- `Fx33` LD B, Vx (R235). -/
  | ldBVx (x : Reg)
  /-- `Fx55` LD [I], Vx (R236). -/
  | ldMiVx (x : Reg)
  /-- `Fx65` LD Vx, [I] (R237). -/
  | ldVxMi (x : Reg)
  deriving DecidableEq, Repr

end Sys2Proof
end

