-- ==== Sys2Proof/Decode.lean ====
section
/-!
DEFINITION. Decoding, total on every 16-bit word and on every list of bytes, the encoder written from the formats of
30_encoding.md R103 and R110, and the `(mask, match)` table of R110 itself, against which the decoder is stated right.
-/

namespace Sys2Proof

/-- Why bytes are no instruction: `unknownOpcode`, a word that matches no row (30_encoding.md R107); `truncated`, fewer than the
two bytes of an instruction (R100), which a fetch never meets. -/
inductive DecodeReject where
  | unknownOpcode
  | truncated
  deriving DecidableEq, Repr

/-- One row of the dispatch table: a word `op` selects it when `op &&& mask = pattern` (30_encoding.md R106). -/
structure OpcodeRow where
  mask : Word
  pattern : Word
  deriving DecidableEq, Repr

/-! The operand fields (30_encoding.md R101, R102). -/

/-- `op[15:12]`, the opcode family. -/
def opFamily (op : Word) : BitVec 4 := op.extractLsb' 12 4
/-- `x = op[11:8]`. -/
def opX (op : Word) : Reg := op.extractLsb' 8 4
/-- `y = op[7:4]`. -/
def opY (op : Word) : Reg := op.extractLsb' 4 4
/-- `n = op[3:0]`. -/
def opN (op : Word) : BitVec 4 := op.extractLsb' 0 4
/-- `nn = op[7:0]`. -/
def opNN (op : Word) : Byte := op.extractLsb' 0 8
/-- `nnn = op[11:0]`. -/
def opNNN (op : Word) : Addr := op.extractLsb' 0 12

/-- Family 0: only `00E0` and `00EE` are instructions (30_encoding.md R107, R108). -/
def decode0 (op : Word) : Except DecodeReject Instr :=
  if op = 0x00E0#16 then .ok .cls else if op = 0x00EE#16 then .ok .ret else .error .unknownOpcode

/-- Family 8: the sub-operation is `op[3:0]`. -/
def decode8 (op : Word) : Except DecodeReject Instr :=
  match opN op with
  | 0x0#4 => .ok (.ldVxVy (opX op) (opY op))
  | 0x1#4 => .ok (.or (opX op) (opY op))
  | 0x2#4 => .ok (.and (opX op) (opY op))
  | 0x3#4 => .ok (.xor (opX op) (opY op))
  | 0x4#4 => .ok (.addVxVy (opX op) (opY op))
  | 0x5#4 => .ok (.sub (opX op) (opY op))
  | 0x6#4 => .ok (.shr (opX op) (opY op))
  | 0x7#4 => .ok (.subn (opX op) (opY op))
  | 0xE#4 => .ok (.shl (opX op) (opY op))
  | _ => .error .unknownOpcode

/-- Family E: the sub-operation is `op[7:0]`. -/
def decodeE (op : Word) : Except DecodeReject Instr :=
  match opNN op with
  | 0x9E#8 => .ok (.skp (opX op))
  | 0xA1#8 => .ok (.sknp (opX op))
  | _ => .error .unknownOpcode

/-- Family F: the sub-operation is `op[7:0]`. -/
def decodeF (op : Word) : Except DecodeReject Instr :=
  match opNN op with
  | 0x07#8 => .ok (.ldVxDt (opX op))
  | 0x0A#8 => .ok (.ldVxK (opX op))
  | 0x15#8 => .ok (.ldDtVx (opX op))
  | 0x18#8 => .ok (.ldStVx (opX op))
  | 0x1E#8 => .ok (.addIVx (opX op))
  | 0x29#8 => .ok (.ldFVx (opX op))
  | 0x33#8 => .ok (.ldBVx (opX op))
  | 0x55#8 => .ok (.ldMiVx (opX op))
  | 0x65#8 => .ok (.ldVxMi (opX op))
  | _ => .error .unknownOpcode

/-- `Decode(op)` of 30_encoding.md R109. -/
def decode (op : Word) : Except DecodeReject Instr :=
  match opFamily op with
  | 0x0#4 => decode0 op
  | 0x1#4 => .ok (.jp (opNNN op))
  | 0x2#4 => .ok (.call (opNNN op))
  | 0x3#4 => .ok (.seVxNn (opX op) (opNN op))
  | 0x4#4 => .ok (.sneVxNn (opX op) (opNN op))
  | 0x5#4 => if opN op = 0 then .ok (.seVxVy (opX op) (opY op)) else .error .unknownOpcode
  | 0x6#4 => .ok (.ldVxNn (opX op) (opNN op))
  | 0x7#4 => .ok (.addVxNn (opX op) (opNN op))
  | 0x8#4 => decode8 op
  | 0x9#4 => if opN op = 0 then .ok (.sneVxVy (opX op) (opY op)) else .error .unknownOpcode
  | 0xA#4 => .ok (.ldI (opNNN op))
  | 0xB#4 => .ok (.jpV0 (opNNN op))
  | 0xC#4 => .ok (.rnd (opX op) (opNN op))
  | 0xD#4 => .ok (.drw (opX op) (opY op) (opN op))
  | 0xE#4 => decodeE op
  | _ => decodeF op

/-- The word two bytes form, the byte at the lower address first: big-endian (20_memory.md R75). -/
def wordOfBytes (hi lo : Byte) : Word := hi ++ lo

/-- The instruction at the head of a list of bytes, with the bytes after it; every instruction has two (30_encoding.md R100). -/
def decodeBytes : List Byte → Except DecodeReject (Instr × List Byte)
  | hi :: lo :: rest =>
    match decode (wordOfBytes hi lo) with
    | .ok i => .ok (i, rest)
    | .error e => .error e
  | _ => .error .truncated

/-! The formats of 30_encoding.md R103, most significant field first. -/

/-- Format ADDR. -/
def fmtAddr (family : BitVec 4) (nnn : Addr) : Word := family ++ nnn
/-- Format XNN. -/
def fmtXnn (family : BitVec 4) (x : Reg) (nn : Byte) : Word := (family ++ x) ++ nn
/-- Formats XY and XYN. -/
def fmtXyn (family : BitVec 4) (x y : Reg) (n : BitVec 4) : Word := ((family ++ x) ++ y) ++ n
/-- Format X. -/
def fmtX (family : BitVec 4) (x : Reg) (sub : Byte) : Word := (family ++ x) ++ sub

/-- The word of an instruction, from the patterns of 30_encoding.md R110. -/
def encode : Instr → Word
  | .cls => 0x00E0#16
  | .ret => 0x00EE#16
  | .jp nnn => fmtAddr 0x1 nnn
  | .call nnn => fmtAddr 0x2 nnn
  | .seVxNn x nn => fmtXnn 0x3 x nn
  | .sneVxNn x nn => fmtXnn 0x4 x nn
  | .seVxVy x y => fmtXyn 0x5 x y 0x0
  | .ldVxNn x nn => fmtXnn 0x6 x nn
  | .addVxNn x nn => fmtXnn 0x7 x nn
  | .ldVxVy x y => fmtXyn 0x8 x y 0x0
  | .or x y => fmtXyn 0x8 x y 0x1
  | .and x y => fmtXyn 0x8 x y 0x2
  | .xor x y => fmtXyn 0x8 x y 0x3
  | .addVxVy x y => fmtXyn 0x8 x y 0x4
  | .sub x y => fmtXyn 0x8 x y 0x5
  | .shr x y => fmtXyn 0x8 x y 0x6
  | .subn x y => fmtXyn 0x8 x y 0x7
  | .shl x y => fmtXyn 0x8 x y 0xE
  | .sneVxVy x y => fmtXyn 0x9 x y 0x0
  | .ldI nnn => fmtAddr 0xA nnn
  | .jpV0 nnn => fmtAddr 0xB nnn
  | .rnd x nn => fmtXnn 0xC x nn
  | .drw x y n => fmtXyn 0xD x y n
  | .skp x => fmtX 0xE x 0x9E
  | .sknp x => fmtX 0xE x 0xA1
  | .ldVxDt x => fmtX 0xF x 0x07
  | .ldVxK x => fmtX 0xF x 0x0A
  | .ldDtVx x => fmtX 0xF x 0x15
  | .ldStVx x => fmtX 0xF x 0x18
  | .addIVx x => fmtX 0xF x 0x1E
  | .ldFVx x => fmtX 0xF x 0x29
  | .ldBVx x => fmtX 0xF x 0x33
  | .ldMiVx x => fmtX 0xF x 0x55
  | .ldVxMi x => fmtX 0xF x 0x65

/-- The table row an instruction belongs to: `mask` and `match` as 30_encoding.md R110 lists them. -/
def rowOf : Instr → OpcodeRow
  | .cls => ⟨0xFFFF, 0x00E0⟩
  | .ret => ⟨0xFFFF, 0x00EE⟩
  | .jp _ => ⟨0xF000, 0x1000⟩
  | .call _ => ⟨0xF000, 0x2000⟩
  | .seVxNn _ _ => ⟨0xF000, 0x3000⟩
  | .sneVxNn _ _ => ⟨0xF000, 0x4000⟩
  | .seVxVy _ _ => ⟨0xF00F, 0x5000⟩
  | .ldVxNn _ _ => ⟨0xF000, 0x6000⟩
  | .addVxNn _ _ => ⟨0xF000, 0x7000⟩
  | .ldVxVy _ _ => ⟨0xF00F, 0x8000⟩
  | .or _ _ => ⟨0xF00F, 0x8001⟩
  | .and _ _ => ⟨0xF00F, 0x8002⟩
  | .xor _ _ => ⟨0xF00F, 0x8003⟩
  | .addVxVy _ _ => ⟨0xF00F, 0x8004⟩
  | .sub _ _ => ⟨0xF00F, 0x8005⟩
  | .shr _ _ => ⟨0xF00F, 0x8006⟩
  | .subn _ _ => ⟨0xF00F, 0x8007⟩
  | .shl _ _ => ⟨0xF00F, 0x800E⟩
  | .sneVxVy _ _ => ⟨0xF00F, 0x9000⟩
  | .ldI _ => ⟨0xF000, 0xA000⟩
  | .jpV0 _ => ⟨0xF000, 0xB000⟩
  | .rnd _ _ => ⟨0xF000, 0xC000⟩
  | .drw _ _ _ => ⟨0xF000, 0xD000⟩
  | .skp _ => ⟨0xF0FF, 0xE09E⟩
  | .sknp _ => ⟨0xF0FF, 0xE0A1⟩
  | .ldVxDt _ => ⟨0xF0FF, 0xF007⟩
  | .ldVxK _ => ⟨0xF0FF, 0xF00A⟩
  | .ldDtVx _ => ⟨0xF0FF, 0xF015⟩
  | .ldStVx _ => ⟨0xF0FF, 0xF018⟩
  | .addIVx _ => ⟨0xF0FF, 0xF01E⟩
  | .ldFVx _ => ⟨0xF0FF, 0xF029⟩
  | .ldBVx _ => ⟨0xF0FF, 0xF033⟩
  | .ldMiVx _ => ⟨0xF0FF, 0xF055⟩
  | .ldVxMi _ => ⟨0xF0FF, 0xF065⟩

/-- Rows 1 to 9 of 30_encoding.md R110: families 0 to 7. -/
def opcodeRowsLow : List OpcodeRow := [
  ⟨0xFFFF, 0x00E0⟩, ⟨0xFFFF, 0x00EE⟩, ⟨0xF000, 0x1000⟩, ⟨0xF000, 0x2000⟩, ⟨0xF000, 0x3000⟩, ⟨0xF000, 0x4000⟩,
  ⟨0xF00F, 0x5000⟩, ⟨0xF000, 0x6000⟩, ⟨0xF000, 0x7000⟩]

/-- Rows 10 to 18 of 30_encoding.md R110: family 8. -/
def opcodeRowsEight : List OpcodeRow := [
  ⟨0xF00F, 0x8000⟩, ⟨0xF00F, 0x8001⟩, ⟨0xF00F, 0x8002⟩, ⟨0xF00F, 0x8003⟩, ⟨0xF00F, 0x8004⟩, ⟨0xF00F, 0x8005⟩,
  ⟨0xF00F, 0x8006⟩, ⟨0xF00F, 0x8007⟩, ⟨0xF00F, 0x800E⟩]

/-- Rows 19 to 25 of 30_encoding.md R110: families 9 to E. -/
def opcodeRowsHigh : List OpcodeRow := [
  ⟨0xF00F, 0x9000⟩, ⟨0xF000, 0xA000⟩, ⟨0xF000, 0xB000⟩, ⟨0xF000, 0xC000⟩, ⟨0xF000, 0xD000⟩, ⟨0xF0FF, 0xE09E⟩,
  ⟨0xF0FF, 0xE0A1⟩]

/-- Rows 26 to 34 of 30_encoding.md R110: family F. -/
def opcodeRowsF : List OpcodeRow := [
  ⟨0xF0FF, 0xF007⟩, ⟨0xF0FF, 0xF00A⟩, ⟨0xF0FF, 0xF015⟩, ⟨0xF0FF, 0xF018⟩, ⟨0xF0FF, 0xF01E⟩, ⟨0xF0FF, 0xF029⟩,
  ⟨0xF0FF, 0xF033⟩, ⟨0xF0FF, 0xF055⟩, ⟨0xF0FF, 0xF065⟩]

/-- The 34 rows of 30_encoding.md R110, `mask` and `match`, in its order. -/
def opcodeTable : List OpcodeRow :=
  opcodeRowsLow ++ opcodeRowsEight ++ opcodeRowsHigh ++ opcodeRowsF

/-- A word selects a row: `op & mask = match` (30_encoding.md R106). -/
abbrev OpcodeRow.selects (r : OpcodeRow) (op : Word) : Prop := op &&& r.mask = r.pattern

/-- The instruction the decoder reads from an instruction whose table bits are `w` (bit 0 the least significant bit of the word):
its high byte lies at the lower address (20_memory.md R75), and bits from `nbits` up are 0. No instruction is longer than
16 bits, so a wider row is none (log entry 15). -/
def decodeTableWord (nbits w : Nat) : Option Instr :=
  if nbits ≤ 16 then
    let op : Word := BitVec.ofNat 16 (w % 2 ^ nbits)
    match decodeBytes [op.extractLsb' 8 8, op.extractLsb' 0 8] with
    | .ok (i, _) => some i
    | .error _ => none
  else none

end Sys2Proof
end

