-- ==== Sys2Proof/Config.lean ====
section
/-!
DEFINITION. The parameters an instance is built with (spec/00_scope.md R9), the fixed constants of R9, and the free values
that the spec leaves to the host (random bytes, key vectors of a call nobody scripted).
-/

namespace Sys2Proof

/-- The parameters of R9: `SPEED`, `STACK_DEPTH` and `FONT_ROM`.
They are fixed for the life of an instance (70_reset_and_hazards.md R340); no instruction names them (10_state.md R48). -/
structure Params where
  /-- `SPEED`: at most this many instructions run in one `cycle` (40_engine.md R130); any natural number (R133). -/
  speed : Nat
  /-- `STACK_DEPTH`: how many return addresses the call stack holds, at least 16 (10_state.md R38). -/
  stackDepth : Nat
  /-- `FONT_ROM`: the 80 bytes that `load_font` writes (20_memory.md R78). -/
  fontRom : Vector Byte 80
  deriving DecidableEq, Repr

namespace Config

/-- `PROG_BASE` of R9: programs are loaded, and the first instruction fetched, here. -/
def progBase : Nat := 0x200

/-- `PROG_MAX` of R9: the longest program `load_program` accepts, `4096 - 0x200` bytes. -/
def progMax : Nat := 4096 - 0x200

/-- The default of `FONT_ROM`: the glyph table of 20_memory.md R78, 16 glyphs of 5 bytes.
PRESUMED by the spec itself (general knowledge, G1); log entry 6. -/
def defaultFont : Vector Byte 80 :=
  (#v[0xF0, 0x90, 0x90, 0x90, 0xF0,  0x20, 0x60, 0x20, 0x20, 0x70] : Vector Byte 10)
  ++ (#v[0xF0, 0x10, 0xF0, 0x80, 0xF0,  0xF0, 0x10, 0xF0, 0x10, 0xF0] : Vector Byte 10)
  ++ (#v[0x90, 0x90, 0xF0, 0x10, 0x10,  0xF0, 0x80, 0xF0, 0x10, 0xF0] : Vector Byte 10)
  ++ (#v[0xF0, 0x80, 0xF0, 0x90, 0xF0,  0xF0, 0x10, 0x20, 0x40, 0x40] : Vector Byte 10)
  ++ (#v[0xF0, 0x90, 0xF0, 0x90, 0xF0,  0xF0, 0x90, 0xF0, 0x10, 0xF0] : Vector Byte 10)
  ++ (#v[0xF0, 0x90, 0xF0, 0x90, 0x90,  0xE0, 0x90, 0xE0, 0x90, 0xE0] : Vector Byte 10)
  ++ (#v[0xF0, 0x80, 0x80, 0x80, 0xF0,  0xE0, 0x90, 0x90, 0x90, 0xE0] : Vector Byte 10)
  ++ (#v[0xF0, 0x80, 0xF0, 0x80, 0xF0,  0xF0, 0x80, 0xF0, 0x80, 0x80] : Vector Byte 10)

/-- The defaults of R9: ten instructions a call, sixteen stack entries, the font of R78. -/
def defaultParams : Params := { speed := 10, stackDepth := 16, fontRom := defaultFont }

/-- FREE VALUE (10_state.md R53): the byte that the host's random source gives at the `k`-th unscripted use; any value.
Log entry 4. -/
opaque freeByte : Nat → Byte

/-- FREE VALUE (10_state.md R51): the key-state vector of the `k`-th `cycle` that no scripted call describes; any value.
Log entry 2. -/
opaque freeKeys : Nat → BitVec 16

/-- FREE VALUE (10_state.md R52): the key-edge vector of the `k`-th `cycle` that no scripted call describes; any value.
Log entry 2. -/
opaque freeEdges : Nat → BitVec 16

end Config

end Sys2Proof
end

