-- ==== Sys2Proof/Machine/State.lean ====
section
/-!
DEFINITION. The state of the block as plain data (spec/10_state.md R30), the reasons a step can stop, and the state after reset.
-/

namespace Sys2Proof.Machine

/-- Memory `M` (20_memory.md R70): the bytes that differ from the reset contents, by rising address.
What an unlisted address reads as is `Memory.unlisted`, and the canonical form is `Memory.wf` (Machine/Ops.lean). -/
abbrev Memory := List Host.Cell

/-- The framebuffer (10_state.md R41): column `cx` of 64, then row `cy` of 32; `true` is a set pixel. -/
abbrev Screen := Vector (Vector Bool 32) 64

/-- The run state `RUN` (10_state.md R42): three values, the fourth code is never held. -/
inductive RunState where
  /-- `RUNNING` (0). -/
  | running
  /-- `WAITING_FOR_KEY` (1), entered by `Fx0A`. -/
  | waitingForKey
  /-- `HALTED` (2), after a fatal error; left only by `reset` (60_exceptions.md R303). -/
  | halted
  deriving DecidableEq, Repr

/-- The cause in `FAULT_CODE` (60_exceptions.md R301); codes 5 to 7 are never recorded. -/
inductive Cause where
  /-- 0: no fatal error. -/
  | none
  /-- 1: a fetched word matched no row of the dispatch table. -/
  | unknownOpcode
  /-- 2: `2nnn` with the stack full. -/
  | stackOverflow
  /-- 3: `00EE` with the stack empty. -/
  | stackUnderflow
  /-- 4: `load_program` with more than 3584 bytes. -/
  | programTooLarge
  deriving DecidableEq, Repr

/-- Where the block stands in its control states (40_engine.md R141). Model's own field; log entry 1. -/
inductive Phase where
  /-- `IDLE`: between transactions; the next step takes the host's next call. -/
  | idle
  /-- Inside a `cycle` that has executed `count` instructions so far (`count` of 40_engine.md R130). -/
  | inCall (count : Nat)
  deriving DecidableEq, Repr

/-- A transaction of the host (10_state.md R49; 60_exceptions.md R327). -/
inductive HostCall where
  /-- `reset`, constructing the block with the configuration `SPEED` (70_reset_and_hazards.md R340). -/
  | reset (speed : Nat)
  /-- `load_font` (20_memory.md R79). -/
  | loadFont
  /-- `load_program(bytes)` (20_memory.md R80 to R82). -/
  | loadProgram (bytes : List Byte)
  /-- `cycle(keys, edges)` (40_engine.md R130). -/
  | cycle (keys edges : BitVec 16)
  deriving DecidableEq, Repr

/-- Why a step stops with a fault. The spec's own fatal errors are NOT here: they are next states with `RUN = HALTED`
(60_exceptions.md R302; log entry 9). -/
inductive Fault where
  /-- Raised by CALL and RET when the slot of `STACK` that `SP` names does not exist. The spec keeps `STACK_DEPTH` slots and
  `SP` in `0..STACK_DEPTH` (10_state.md R38), so no run from reset meets it (`State.Inv`); SAFE; log entry 10. -/
  | stackSlotMissing
  deriving DecidableEq, Repr

/-- Why a step is refused: the spec gives the transaction no meaning (00_scope.md R14). -/
inductive Refusal where
  /-- Raised by an arm of `exec` whose instruction has no meaning yet (none at present); SAFE. -/
  | notModelled (mnemonic : String)
  /-- Raised by a host's `load_font` or `load_program` while `STARTED = 1` (20_memory.md R84); no instruction raises it; SAFE. -/
  | loadAfterStart
  deriving DecidableEq, Repr

/-- Why a stack operation does not complete (10_state.md R39). -/
inductive StackError where
  /-- A push with `SP = STACK_DEPTH`. -/
  | overflow
  /-- A pop with `SP = 0`. -/
  | underflow
  /-- The slot `SP` names is not held: only in states outside `State.Inv`. -/
  | slotMissing
  deriving DecidableEq, Repr

/-- The state (10_state.md R30), followed by the configuration and the host's side of the interface, which the step reads because it
takes no other argument (log entries 2, 4, 5). -/
structure State where
  /-- The parameters of this instance (00_scope.md R9). -/
  cfg : Params
  /-- `M` (20_memory.md R70). -/
  mem : Memory
  /-- `V0`..`VF` (10_state.md R31). -/
  v : Vector Byte 16
  /-- `I` (10_state.md R35). -/
  i : Addr
  /-- `PC` (10_state.md R37). -/
  pc : Addr
  /-- `STACK[0]`..`STACK[STACK_DEPTH-1]` (10_state.md R38). -/
  stack : List Addr
  /-- `SP`, the number of entries held (10_state.md R38). -/
  sp : Nat
  /-- `DT`, the delay timer (10_state.md R40). -/
  dt : Byte
  /-- `ST`, the sound timer (10_state.md R40). -/
  st : Byte
  /-- `FB` (10_state.md R41). -/
  fb : Screen
  /-- `RUN` (10_state.md R42). -/
  run : RunState
  /-- `WAITX` (10_state.md R43). -/
  waitX : Reg
  /-- `FAULT_CODE` (10_state.md R44). -/
  faultCode : Cause
  /-- `FAULT_PC` (10_state.md R44). -/
  faultPc : Addr
  /-- `FAULT_OP` (10_state.md R44). -/
  faultOp : Word
  /-- `SOUND_GATE` (10_state.md R46). -/
  soundGate : Bool
  /-- `STARTED` (10_state.md R47). -/
  started : Bool
  /-- The control state and, in a call, its instruction count (40_engine.md R130, R141). -/
  phase : Phase
  /-- `keys`, the key-state vector of the call in progress (10_state.md R50, R51). -/
  keys : BitVec 16
  /-- The transactions the host has lined up, next first (10_state.md R49). -/
  hostCalls : List HostCall
  /-- Bytes the host's random source has lined up, next first (10_state.md R53). -/
  randomBytes : List Byte
  /-- How many free values have been used: the argument of the opaque constants of Config (log entries 2, 4). -/
  fresh : Nat
  deriving DecidableEq, Repr

/-- The state after `reset` with the default parameters (10_state.md R55; 70_reset_and_hazards.md R340): idle, nothing loaded,
nothing lined up by the host. -/
def State.reset : State where
  cfg := Config.defaultParams
  mem := []
  v := Vector.replicate 16 0
  i := 0
  pc := 0x200
  stack := List.replicate Config.defaultParams.stackDepth 0
  sp := 0
  dt := 0
  st := 0
  fb := Vector.replicate 64 (Vector.replicate 32 false)
  run := .running
  waitX := 0
  faultCode := .none
  faultPc := 0
  faultOp := 0
  soundGate := false
  started := false
  phase := .idle
  keys := 0
  hostCalls := []
  randomBytes := []
  fresh := 0

/-- A step's outcome on this machine. -/
abbrev Outcome := Host.Outcome State Fault Refusal

end Sys2Proof.Machine
end

