-- ==== Sys2Proof/Machine/Ops.lean ====
section
/-!
DEFINITION. The named operations over memory, registers, stack, framebuffer and the random source, and the one shared
operation that takes a fatal error. There is no return from a fatal error beside it: no instruction returns from one
(spec/60_exceptions.md R300, R305) and only the transaction `reset` leaves `HALTED` (R303); that is `restart`.
-/

namespace Sys2Proof.Machine

/-! ## Memory (20_memory.md) -/

/-- What an address with no entry reads as: the reset contents 0x00 (10_state.md R55; log entry 7). -/
def Memory.unlisted : Byte := 0x00

/-- The byte at an address. -/
def Memory.read : Memory → Nat → Byte
  | [], _ => Memory.unlisted
  | (k, b) :: rest, a => if k = a then b else Memory.read rest a

/-- Every entry but those for address `a`. -/
def Memory.erase (m : Memory) (a : Nat) : Memory := m.filter fun c => c.1 != a

/-- Put an entry before the first one with a higher address. -/
def Memory.insert : Memory → Nat → Byte → Memory
  | [], a, b => [(a, b)]
  | (k, c) :: rest, a, b => if a < k then (a, b) :: (k, c) :: rest else (k, c) :: Memory.insert rest a b

/-- Store a byte, keeping the canonical form: storing what an unlisted address reads as removes the entry. -/
def Memory.write (m : Memory) (a : Nat) (b : Byte) : Memory :=
  if b = Memory.unlisted then m.erase a else (m.erase a).insert a b

/-- The canonical form: addresses strictly rising and inside the 4096 cells (R70), no entry equal to what an unlisted address
reads as. -/
abbrev Memory.wf (m : Memory) : Prop :=
  m.Pairwise (fun p q => p.1 < q.1) ∧ ∀ c ∈ m, c.1 < 4096 ∧ c.2 ≠ Memory.unlisted

/-- `EA(base, k) = (base + k) mod 4096` (20_memory.md R73). -/
def ea (base : Addr) (k : Nat) : Addr := base + BitVec.ofNat 12 k

/-- `MemRead(a, 1)` (20_memory.md R74). -/
def readMem (a : Addr) (s : State) : Byte := s.mem.read a.toNat

/-- `MemWrite(a, 1, b)` (20_memory.md R74): any address may be written (R72). -/
def writeMem (a : Addr) (b : Byte) (s : State) : State := { s with mem := s.mem.write a.toNat b }

/-! ## Registers (10_state.md) -/

/-- `VF`, the flag register (10_state.md R33). -/
def vf : Reg := 0xF#4

/-- `V[x]` (10_state.md R31). -/
def readV (x : Reg) (s : State) : Byte := s.v[x.toNat]'x.isLt

/-- `V[x] <- b` (10_state.md R31, R32). -/
def writeV (x : Reg) (b : Byte) (s : State) : State := { s with v := s.v.set x.toNat b x.isLt }

/-- `PC <- a` (10_state.md R37). -/
def setPc (a : Addr) (s : State) : State := { s with pc := a }

/-- `I <- a` (10_state.md R35). -/
def setI (a : Addr) (s : State) : State := { s with i := a }

/-- `DT <- b` (10_state.md R40). -/
def setDt (b : Byte) (s : State) : State := { s with dt := b }

/-- `ST <- b` (10_state.md R40). -/
def setSt (b : Byte) (s : State) : State := { s with st := b }

/-- `STACK <- stack`, `SP <- sp` (10_state.md R38). -/
def setStack (stack : List Addr) (sp : Nat) (s : State) : State := { s with stack := stack, sp := sp }

/-- `RUN <- r` (10_state.md R42). -/
def setRun (r : RunState) (s : State) : State := { s with run := r }

/-- The control state (40_engine.md R141; log entry 1). -/
def setPhase (p : Phase) (s : State) : State := { s with phase := p }

/-- `Skip()`: `PC <- (PC + 2) mod 4096` (42_skip.md R180). -/
def skip (s : State) : State := setPc (s.pc + 2) s

/-- `if c: Skip()`, the shape of every skip instruction (42_skip.md R181 to R184; 46_keys_timers.md R271, R272). -/
def skipIf (c : Bool) (s : State) : State := if c then skip s else s

/-- `ipc`, the address of the instruction being executed: `PC` is `ipc + 2 mod 4096` from the fetch on (10_state.md R37;
DEDUCED, log entry 8). -/
def ipcOf (s : State) : Addr := s.pc - 2

/-! ## Fatal errors and reset -/

/-- `raise Fault(cause, ipc, op)`: taking a fatal error (60_exceptions.md R302). It writes nothing else. -/
def raiseFault (cause : Cause) (ipc : Addr) (op : Word) (s : State) : State :=
  { s with faultCode := cause, faultPc := ipc, faultOp := op, run := .halted, soundGate := false }

/-- The transaction `reset` with the configuration `SPEED` (70_reset_and_hazards.md R340): every element of the block to its reset
value (10_state.md R55). The rest of the configuration and the host's side stay (log entry 14). -/
def restart (speed : Nat) (s : State) : State :=
  { State.reset with
    cfg := { s.cfg with speed := speed }
    stack := List.replicate s.cfg.stackDepth 0
    hostCalls := s.hostCalls
    randomBytes := s.randomBytes
    fresh := s.fresh }

/-- The code of a run state (10_state.md R42, R48). -/
def RunState.code : RunState → BitVec 2
  | .running => 0
  | .waitingForKey => 1
  | .halted => 2

/-- The code in `FAULT_CODE` (60_exceptions.md R301). -/
def Cause.code : Cause → BitVec 3
  | .none => 0
  | .unknownOpcode => 1
  | .stackOverflow => 2
  | .stackUnderflow => 3
  | .programTooLarge => 4

/-! ## Call stack (10_state.md R38, R39) -/

/-- `Push(v)`: overflow is checked before any write. `SP = STACK_DEPTH` is read as `SP ≥ STACK_DEPTH`, the same wherever
`SP` is in its range (log entry 10). -/
def push (value : Addr) (s : State) : Except StackError State :=
  if s.cfg.stackDepth ≤ s.sp then .error .overflow
  else if s.stack.length ≤ s.sp then .error .slotMissing
  else .ok (setStack (s.stack.set s.sp value) (s.sp + 1) s)

/-- `Pop()`: underflow is checked before any write; the popped slot keeps its contents. -/
def pop (s : State) : Except StackError (Addr × State) :=
  if s.sp = 0 then .error .underflow
  else
    match s.stack[s.sp - 1]? with
    | some a => .ok (a, setStack s.stack (s.sp - 1) s)
    | none => .error .slotMissing

/-- How CALL and RET end when their stack operation does not complete (41_flow.md R161, R163). -/
def stackStop (e : StackError) (op : Word) (s : State) : Outcome :=
  match e with
  | .overflow => .next (raiseFault .stackOverflow (ipcOf s) op s)
  | .underflow => .next (raiseFault .stackUnderflow (ipcOf s) op s)
  | .slotMissing => .fault .stackSlotMissing

/-! ## Framebuffer (10_state.md R41; 45_display.md R250) -/

/-- `FB[px mod 64][py mod 32]`: coordinates are wrapped before indexing. -/
def pixel (px py : Nat) (s : State) : Bool :=
  (s.fb[px % 64]'(Nat.mod_lt _ (by decide)))[py % 32]'(Nat.mod_lt _ (by decide))

/-- Write `FB[px mod 64][py mod 32]`. -/
def setPixel (px py : Nat) (b : Bool) (s : State) : State :=
  { s with
    fb := s.fb.set (px % 64) ((s.fb[px % 64]'(Nat.mod_lt _ (by decide))).set (py % 32) b (Nat.mod_lt _ (by decide)))
      (Nat.mod_lt _ (by decide)) }

/-- `Toggle(px, py)` of 45_display.md R250: the previous value, and the state with the pixel inverted. -/
def toggle (px py : Nat) (s : State) : Bool × State := (pixel px py s, setPixel px py (!pixel px py s) s)

/-- Every pixel false (45_display.md R251). -/
def clearScreen (s : State) : State := { s with fb := Vector.replicate 64 (Vector.replicate 32 false) }

/-! ## Random source and key wait -/

/-- The host's lined-up random bytes that are left (log entry 4). -/
def setRandom (bytes : List Byte) (s : State) : State := { s with randomBytes := bytes }

/-- One more free value has been used (log entries 2, 4). -/
def useFresh (s : State) : State := { s with fresh := s.fresh + 1 }

/-- `Draw()` (10_state.md R53): the next byte the host lined up; when it lined up none, a free value. -/
def draw (s : State) : Byte × State :=
  match s.randomBytes with
  | b :: rest => (b, setRandom rest s)
  | [] => (Config.freeByte s.fresh, useFresh s)

/-- Enter `WAITING_FOR_KEY` for register `x` (46_keys_timers.md R273). -/
def enterWait (x : Reg) (s : State) : State := { s with waitX := x, run := .waitingForKey }

/-! ## Outputs (10_state.md R48, R54) -/

/-- What the host reads between transactions: the outputs of R54, and `WAITX`, which the table of R48 lets the host read too. -/
structure Outputs where
  fb : Screen
  soundGate : Bool
  run : BitVec 2
  waitX : Reg
  faultCode : BitVec 3
  faultPc : Addr
  faultOp : Word
  deriving DecidableEq, Repr

/-- The transaction 'read outputs' (10_state.md R48, R49, R54): it changes nothing. -/
def outputs (s : State) : Outputs where
  fb := s.fb
  soundGate := s.soundGate
  run := s.run.code
  waitX := s.waitX
  faultCode := s.faultCode.code
  faultPc := s.faultPc
  faultOp := s.faultOp

end Sys2Proof.Machine
end

