-- ==== Sys2Proof/Machine/Flags.lean ====
section
/-!
DEFINITION. The flag computations of spec/43_alu.md R190 and the order of a flag write and a result write (40_engine.md R139).
VF is the machine's only flag register (10_state.md R33).
-/

namespace Sys2Proof.Machine

/-- A flag as VF holds it: 1 or 0. -/
def flagByte (b : Bool) : Byte := if b then 1 else 0

/-- Carry of `8xy4`: `a + b > 255` (43_alu.md R190, R197). -/
def carryOut (a b : Byte) : Bool := decide (255 < a.toNat + b.toNat)

/-- No-borrow of `a - b`: the minuend is at least the subtrahend, equality included (43_alu.md R190, R198, R200). -/
def noBorrow (a b : Byte) : Bool := decide (b.toNat ≤ a.toNat)

/-- The bit `8xy6` shifts out: bit 0 (43_alu.md R199). -/
def shiftedOutRight (a : Byte) : Bool := a.getLsbD 0

/-- The bit `8xyE` shifts out: bit 7 (43_alu.md R201). -/
def shiftedOutLeft (a : Byte) : Bool := a.getLsbD 7

/-- `V[0xF] <- flag`, then `V[x] <- result`: with `x = 0xF` the result is what VF keeps (40_engine.md R139). -/
def writeFlagThenResult (x : Reg) (flag : Bool) (result : Byte) (s : State) : State :=
  writeV x result (writeV vf (flagByte flag) s)

end Sys2Proof.Machine
end

