-- ==== Sys2Proof/Machine/Operands.lean ====
section
/-!
DEFINITION. The operand forms: the latches `A`, `B`, `Z` (spec/40_engine.md R138), index plus offset (44_index_memory.md R230),
register ranges, the key index, the glyph address and the decimal digits.
A meaning takes its operands from the state it starts in, before it writes anything: that is the latch.
-/

namespace Sys2Proof.Machine

/-- `A = V[x]` (40_engine.md R138). -/
abbrev latchA (x : Reg) (s : State) : Byte := readV x s

/-- `B = V[y]` (40_engine.md R138). -/
abbrev latchB (y : Reg) (s : State) : Byte := readV y s

/-- `Z = V[0]` (40_engine.md R138). -/
abbrev latchZ (s : State) : Byte := readV 0 s

/-- `zext_12` of a byte (00_scope.md R11). -/
def zext12 (b : Byte) : Addr := b.setWidth 12

/-- `EA(I, k)`, the one addressing mode (44_index_memory.md R230). -/
def indexAddr (s : State) (k : Nat) : Addr := ea s.i k

/-- The register numbers `0..x`, ascending (30_encoding.md R105). -/
def regRange (x : Reg) : List Nat := List.range (x.toNat + 1)

/-- The key a byte names: its low nibble, `A & 0xF` (46_keys_timers.md R270). -/
def keyIndex (b : Byte) : Reg := b.setWidth 4

/-- `Key(k)` (10_state.md R51): bit `k` of the call's key vector. -/
def keyPressed (k : Reg) (s : State) : Bool := s.keys.getLsbD k.toNat

/-- The address of glyph `b`: `b * 5` from `FONT_BASE = 0x000` (44_index_memory.md R234). -/
def glyphAddr (b : Byte) : Addr := zext12 b * 5

/-- `b / 100` (44_index_memory.md R235). -/
def hundreds (b : Byte) : Byte := BitVec.ofNat 8 (b.toNat / 100)

/-- `(b / 10) mod 10` (44_index_memory.md R235). -/
def tens (b : Byte) : Byte := BitVec.ofNat 8 (b.toNat / 10 % 10)

/-- `b mod 10` (44_index_memory.md R235). -/
def ones (b : Byte) : Byte := BitVec.ofNat 8 (b.toNat % 10)

end Sys2Proof.Machine
end

