-- ==== Sys2Proof/Machine/Alu.lean ====
section
/-!
DEFINITION. Register loads and the ALU (spec/43_alu.md).
-/

namespace Sys2Proof.Machine

/-- `6xnn` LD Vx, nn (43_alu.md R191). -/
def execLdVxNn (x : Reg) (nn : Byte) (s : State) : Outcome := .next (writeV x nn s)

/-- `7xnn` ADD Vx, nn (43_alu.md R192): no carry is written. -/
def execAddVxNn (x : Reg) (nn : Byte) (s : State) : Outcome := .next (writeV x (latchA x s + nn) s)

/-- `8xy0` LD Vx, Vy (43_alu.md R193). -/
def execLdVxVy (x y : Reg) (s : State) : Outcome := .next (writeV x (latchB y s) s)

/-- `8xy1` OR Vx, Vy (43_alu.md R194). -/
def execOr (x y : Reg) (s : State) : Outcome := .next (writeV x (latchA x s ||| latchB y s) s)

/-- `8xy2` AND Vx, Vy (43_alu.md R195). -/
def execAnd (x y : Reg) (s : State) : Outcome := .next (writeV x (latchA x s &&& latchB y s) s)

/-- `8xy3` XOR Vx, Vy (43_alu.md R196). -/
def execXor (x y : Reg) (s : State) : Outcome := .next (writeV x (latchA x s ^^^ latchB y s) s)

/-- `8xy4` ADD Vx, Vy (43_alu.md R197). -/
def execAddVxVy (x y : Reg) (s : State) : Outcome :=
  .next (writeFlagThenResult x (carryOut (latchA x s) (latchB y s)) (latchA x s + latchB y s) s)

/-- `8xy5` SUB Vx, Vy (43_alu.md R198). -/
def execSub (x y : Reg) (s : State) : Outcome :=
  .next (writeFlagThenResult x (noBorrow (latchA x s) (latchB y s)) (latchA x s - latchB y s) s)

/-- `8xy6` SHR Vx (43_alu.md R199): `y` is ignored. -/
def execShr (x _y : Reg) (s : State) : Outcome :=
  .next (writeFlagThenResult x (shiftedOutRight (latchA x s)) (latchA x s >>> 1) s)

/-- `8xy7` SUBN Vx, Vy (43_alu.md R200). -/
def execSubn (x y : Reg) (s : State) : Outcome :=
  .next (writeFlagThenResult x (noBorrow (latchB y s) (latchA x s)) (latchB y s - latchA x s) s)

/-- `8xyE` SHL Vx (43_alu.md R201): `y` is ignored. -/
def execShl (x _y : Reg) (s : State) : Outcome :=
  .next (writeFlagThenResult x (shiftedOutLeft (latchA x s)) (latchA x s <<< 1) s)

/-- `Cxnn` RND Vx, nn (43_alu.md R202): exactly one draw. -/
def execRnd (x : Reg) (nn : Byte) (s : State) : Outcome := .next (writeV x ((draw s).1 &&& nn) (draw s).2)

end Sys2Proof.Machine
end

