-- ==== Sys2Proof/Machine/Display.lean ====
section
/-!
DEFINITION. The framebuffer and the sprite engine (spec/45_display.md).
-/

namespace Sys2Proof.Machine

/-- One set bit of a sprite: toggle its pixel; if that turned a set pixel off, `V[0xF] <- 1` (45_display.md R252). -/
def drawBit (px py : Nat) (s : State) : State :=
  if (toggle px py s).1 then writeV vf (flagByte true) (toggle px py s).2 else (toggle px py s).2

/-- One row of a sprite: bit `7 - col` of `byte` stands at column `px + col` (45_display.md R252). -/
def drawRow (byte : Byte) (px py : Nat) (s : State) : State :=
  (List.range 8).foldl (fun t col => if byte.getLsbD (7 - col) then drawBit (px + col) py t else t) s

/-- The rows `rows` of the sprite at `I`, drawn at `(px, py)` (45_display.md R252). -/
def drawRows (rows : List Nat) (px py : Nat) (s : State) : State :=
  rows.foldl (fun t row => drawRow (readMem (indexAddr t row) t) px (py + row) t) s

/-- `00E0` CLS (45_display.md R251). -/
def execCls (s : State) : Outcome := .next (clearScreen s)

/-- `Dxyn` DRW Vx, Vy, n (45_display.md R252): the coordinates are latched before VF is cleared. -/
def execDrw (x y : Reg) (n : BitVec 4) (s : State) : Outcome :=
  .next (drawRows (List.range n.toNat) (latchA x s).toNat (latchB y s).toNat (writeV vf (flagByte false) s))

end Sys2Proof.Machine
end

