-- ==== Sys2Proof/Machine/Flow.lean ====
section
/-!
DEFINITION. Control transfer: RET, JP, CALL, JP V0 (spec/41_flow.md). Every meaning starts with `PC` already past the instruction.
-/

namespace Sys2Proof.Machine

/-- `00EE` RET (41_flow.md R161). -/
def execRet (s : State) : Outcome :=
  match pop s with
  | .ok (a, t) => .next (setPc a t)
  | .error e => stackStop e (encode .ret) s

/-- `1nnn` JP nnn (41_flow.md R162). -/
def execJp (nnn : Addr) (s : State) : Outcome := .next (setPc nnn s)

/-- `2nnn` CALL nnn (41_flow.md R163): the pushed value is the already advanced `PC`. -/
def execCall (nnn : Addr) (s : State) : Outcome :=
  match push s.pc s with
  | .ok t => .next (setPc nnn t)
  | .error e => stackStop e (encode (.call nnn)) s

/-- `Bnnn` JP V0, nnn (41_flow.md R164): the sum is reduced mod 4096. -/
def execJpV0 (nnn : Addr) (s : State) : Outcome := .next (setPc (nnn + zext12 (latchZ s)) s)

end Sys2Proof.Machine
end

