-- ==== Sys2Proof/Machine/IndexMemory.lean ====
section
/-!
DEFINITION. The index register and memory transfers (spec/44_index_memory.md). No instruction here faults: addresses wrap.
-/

namespace Sys2Proof.Machine

/-- `Annn` LD I, nnn (44_index_memory.md R231). -/
def execLdI (nnn : Addr) (s : State) : Outcome := .next (setI nnn s)

/-- `Fx1E` ADD I, Vx (44_index_memory.md R233): VF is not written. -/
def execAddIVx (x : Reg) (s : State) : Outcome := .next (setI (s.i + zext12 (latchA x s)) s)

/-- `Fx29` LD F, Vx (44_index_memory.md R234): the whole byte is used, not its low nibble. -/
def execLdFVx (x : Reg) (s : State) : Outcome := .next (setI (glyphAddr (latchA x s)) s)

/-- `Fx33` LD B, Vx (44_index_memory.md R235): hundreds, tens, ones at ascending addresses. -/
def execLdBVx (x : Reg) (s : State) : Outcome :=
  .next (writeMem (indexAddr s 2) (ones (latchA x s))
    (writeMem (indexAddr s 1) (tens (latchA x s)) (writeMem (indexAddr s 0) (hundreds (latchA x s)) s)))

/-- Store the registers numbered in `ks`, each at its offset from `I` (44_index_memory.md R236). -/
def storeRegs (ks : List Nat) (s : State) : State :=
  ks.foldl (fun t k => writeMem (indexAddr t k) (readV (BitVec.ofNat 4 k) t) t) s

/-- Load the registers numbered in `ks`, each from its offset from `I` (44_index_memory.md R237). -/
def loadRegs (ks : List Nat) (s : State) : State :=
  ks.foldl (fun t k => writeV (BitVec.ofNat 4 k) (readMem (indexAddr t k) t) t) s

/-- `Fx55` LD [I], Vx (44_index_memory.md R236): `I` is unchanged. -/
def execLdMiVx (x : Reg) (s : State) : Outcome := .next (storeRegs (regRange x) s)

/-- `Fx65` LD Vx, [I] (44_index_memory.md R237): `I` is unchanged. -/
def execLdVxMi (x : Reg) (s : State) : Outcome := .next (loadRegs (regRange x) s)

end Sys2Proof.Machine
end

