-- ==== Sys2Proof/Machine/KeysTimers.lean ====
section
/-!
DEFINITION. Key tests, the key wait, and timer access (spec/46_keys_timers.md).
-/

namespace Sys2Proof.Machine

/-- `Ex9E` SKP Vx (46_keys_timers.md R271). -/
def execSkp (x : Reg) (s : State) : Outcome := .next (skipIf (keyPressed (keyIndex (latchA x s)) s) s)

/-- `ExA1` SKNP Vx (46_keys_timers.md R272). -/
def execSknp (x : Reg) (s : State) : Outcome := .next (skipIf (!keyPressed (keyIndex (latchA x s)) s) s)

/-- `Fx07` LD Vx, DT (46_keys_timers.md R275). -/
def execLdVxDt (x : Reg) (s : State) : Outcome := .next (writeV x s.dt s)

/-- `Fx0A` LD Vx, K (46_keys_timers.md R273): `Vx` is written when the wait resolves (`resolveWait`). -/
def execLdVxK (x : Reg) (s : State) : Outcome := .next (enterWait x s)

/-- `Fx15` LD DT, Vx (46_keys_timers.md R276). -/
def execLdDtVx (x : Reg) (s : State) : Outcome := .next (setDt (latchA x s) s)

/-- `Fx18` LD ST, Vx (46_keys_timers.md R277). -/
def execLdStVx (x : Reg) (s : State) : Outcome := .next (setSt (latchA x s) s)

end Sys2Proof.Machine
end

