-- ==== Sys2Proof/Machine/Skips.lean ====
section
/-!
DEFINITION. Conditional skips on registers (spec/42_skip.md).
-/

namespace Sys2Proof.Machine

/-- `3xnn` SE Vx, nn (42_skip.md R181). -/
def execSeVxNn (x : Reg) (nn : Byte) (s : State) : Outcome := .next (skipIf (latchA x s == nn) s)

/-- `4xnn` SNE Vx, nn (42_skip.md R182). -/
def execSneVxNn (x : Reg) (nn : Byte) (s : State) : Outcome := .next (skipIf (latchA x s != nn) s)

/-- `5xy0` SE Vx, Vy (42_skip.md R183). -/
def execSeVxVy (x y : Reg) (s : State) : Outcome := .next (skipIf (latchA x s == latchB y s) s)

/-- `9xy0` SNE Vx, Vy (42_skip.md R184). -/
def execSneVxVy (x y : Reg) (s : State) : Outcome := .next (skipIf (latchA x s != latchB y s) s)

end Sys2Proof.Machine
end

