-- ==== Sys2Proof/Machine/Loader.lean ====
section
/-!
DEFINITION. The host's loaders (spec/20_memory.md R78 to R84).
-/

namespace Sys2Proof.Machine

/-- Store `bytes` at ascending addresses from `base` (20_memory.md R74, R81). -/
def writeBytes : Addr → List Byte → State → State
  | _, [], s => s
  | base, b :: rest, s => writeBytes (ea base 1) rest (writeMem base b s)

/-- `load_font` (20_memory.md R79): `FONT_ROM` to 0x000..0x04F. -/
def loadFont (s : State) : State := writeBytes 0x000 s.cfg.fontRom.toList s

/-- A load that failed with `ProgramTooLarge`: `FAULT_PC` and `FAULT_OP` are left as they are (20_memory.md R82). -/
def failLoad (s : State) : State := { s with faultCode := .programTooLarge, run := .halted }

/-- `load_program(bytes)` (20_memory.md R80 to R82): the length is checked before any byte is written. -/
def loadProgram (bytes : List Byte) (s : State) : State :=
  if Config.progMax < bytes.length then failLoad s
  else writeBytes (BitVec.ofNat 12 Config.progBase) bytes s

end Sys2Proof.Machine
end

