-- ==== Sys2Proof/Machine/Engine.lean ====
section
/-!
DEFINITION. The fetch-decode-execute engine (spec/40_engine.md) and the host's transactions: what `step` calls.
-/

namespace Sys2Proof.Machine

/-! ## One instruction (40_engine.md R135 to R140) -/

/-- FETCH: the two bytes at `PC`, big-endian; the second address wraps (40_engine.md R136). -/
def fetchWord (s : State) : Word := wordOfBytes (readMem s.pc s) (readMem (ea s.pc 1) s)

/-- `PC <- (PC + 2) mod 4096`, before dispatch (40_engine.md R136, R137). -/
def advancePc (s : State) : State := setPc (ea s.pc 2) s

/-- `Step()` of 40_engine.md R135: fetch, decode, latch and execute. A word that is no instruction takes the fatal error
`UnknownOpcode` with its address and itself (R138). -/
def runInstr (s : State) : Outcome :=
  match decode (fetchWord s) with
  | .ok i => exec i (advancePc s)
  | .error _ => .next (raiseFault .unknownOpcode s.pc (fetchWord s) (advancePc s))

/-- After the instruction that follows `count` others: a fatal error ends the call at once (40_engine.md R134); otherwise one more
instruction has run. -/
def endInstr (count : Nat) (s : State) : State :=
  if s.run = .halted then setPhase .idle s else setPhase (.inCall (count + 1)) s

/-- One instruction of a batch that has run `count` before it. -/
def instrStep (count : Nat) (s : State) : Outcome :=
  match runInstr s with
  | .next t => .next (endInstr count t)
  | .fault r => .fault r
  | .refused r => .refused r

/-! ## The end of a cycle (60_exceptions.md R320, R321) -/

/-- A timer one tick later: never below 0. -/
def tickDown (b : Byte) : Byte := if b = 0 then 0 else b - 1

/-- `TimerTick()` (60_exceptions.md R320). -/
def timerTick (s : State) : State := { s with dt := tickDown s.dt, st := tickDown s.st }

/-- `SOUND_GATE <- (ST > 0)`, right after the tick (60_exceptions.md R321). -/
def soundGateUpdate (s : State) : State := { s with soundGate := s.st != 0 }

/-- The end of a call (40_engine.md R130): no tick and no gate update when it halted (R134). -/
def finishCycle (s : State) : State :=
  if s.run = .halted then setPhase .idle s else setPhase .idle (soundGateUpdate (timerTick s))

/-! ## The start of a cycle (40_engine.md R130; 46_keys_timers.md R274) -/

/-- The least key with its edge bit set (46_keys_timers.md R274). -/
def leastKey (edges : BitVec 16) : Option Nat := (List.range 16).find? (fun k => edges.getLsbD k)

/-- `ResolveWait(edges)` (46_keys_timers.md R274): the lowest newly pressed key goes to `V[WAITX]`. -/
def resolveWait (edges : BitVec 16) (s : State) : State :=
  match leastKey edges with
  | some k => setRun .running (writeV s.waitX (BitVec.ofNat 8 k) s)
  | none => s

/-- A call that is not halted starts: `STARTED <- 1`, and the key vector is fixed for the call (40_engine.md R130;
10_state.md R47, R50). -/
def enterCycle (keys : BitVec 16) (s : State) : State := { s with started := true, keys := keys, phase := .inCall 0 }

/-- `cycle(keys, edges)` up to its batch (40_engine.md R130); halted, it changes nothing (60_exceptions.md R303),
so `STARTED` stays 0 on a machine that a load has halted; what a load does after such a call is log entry 28. -/
def beginCycle (keys edges : BitVec 16) (s : State) : State :=
  match s.run with
  | .halted => s
  | .waitingForKey => resolveWait edges (enterCycle keys s)
  | .running => enterCycle keys s

/-! ## The host (60_exceptions.md R327) -/

/-- The transactions the host still has lined up (log entry 2). -/
def setCalls (calls : List HostCall) (s : State) : State := { s with hostCalls := calls }

/-- The host's next transaction: the next one lined up; with none lined up, a `cycle` with free key vectors (log entry 2). -/
def nextCall (s : State) : HostCall × State :=
  match s.hostCalls with
  | c :: rest => (c, setCalls rest s)
  | [] => (.cycle (Config.freeKeys s.fresh) (Config.freeEdges s.fresh), useFresh s)

/-- One transaction, up to the batch of a `cycle`: loads are defined only while `STARTED = 0` (20_memory.md R84).
DESIGN CHOICE, unsafe, log entry 28: a load after a `cycle` that found the machine halted, `STARTED` still 0, is executed. -/
def hostCall (c : HostCall) (s : State) : Outcome :=
  match c with
  | .reset speed => .next (restart speed s)
  | .loadFont => if s.started then .refused .loadAfterStart else .next (loadFont s)
  | .loadProgram bytes => if s.started then .refused .loadAfterStart else .next (loadProgram bytes s)
  | .cycle keys edges => .next (beginCycle keys edges s)

/-- A step between transactions: the host's next call. -/
def idleStep (s : State) : Outcome := hostCall (nextCall s).1 (nextCall s).2

/-- The batch goes on: `RUN = RUNNING and count < SPEED` (40_engine.md R130, R133). -/
def batchGoesOn (count : Nat) (s : State) : Bool := decide (s.run = .running ∧ count < s.cfg.speed)

/-- A step inside a call that has run `count` instructions: one more, or the end of the call (40_engine.md R130, R141). -/
def callStep (count : Nat) (s : State) : Outcome :=
  if batchGoesOn count s then instrStep count s else .next (finishCycle s)

end Sys2Proof.Machine
end

