-- ==== Sys2Proof/Machine/Step.lean ====
section
/-!
DEFINITION. One step of the machine (spec/40_engine.md R141): between transactions the host's next call, inside a `cycle` one
instruction or the end of the call.
-/

namespace Sys2Proof.Machine

/-- One step (log entry 1). -/
def step (s : State) : Host.Outcome State Fault Refusal :=
  match s.phase with
  | .idle => idleStep s
  | .inCall count => callStep count s

/-- `s` with the word `w` stored where `step` fetches its next instruction, inside a `cycle` whose batch goes on, so that the very
next step fetches and runs it (log entry 3). -/
def State.withFetchWord (s : State) (nbits w : Nat) : State :=
  let op : Word := BitVec.ofNat 16 (w % 2 ^ nbits)
  let loaded := writeMem (ea s.pc 1) (op.extractLsb' 0 8) (writeMem s.pc (op.extractLsb' 8 8) s)
  { loaded with run := .running, started := true, phase := .inCall 0, cfg := { s.cfg with speed := max 1 s.cfg.speed } }

end Sys2Proof.Machine
end

