-- ==== Sys2Proof/Machine/Cycle.lean ====
section
/-!
DEFINITION. The `cycle` transaction as ONE function, transcribed from the pseudocode of spec/40_engine.md R130.
The machine's `step` does not use it: a statement says that running `step` through a call gives what this gives.
-/

namespace Sys2Proof.Machine

/-- `while RUN = RUNNING and count < SPEED: Step()`, with `slots` instruction slots left (40_engine.md R130, R133). -/
def batch : Nat → State → Outcome
  | 0, s => .next s
  | slots + 1, s =>
    if s.run = .running then
      match runInstr s with
      | .next t => batch slots t
      | .fault r => .fault r
      | .refused r => .refused r
    else .next s

/-- `cycle(keys, edges)` of 40_engine.md R130, from an idle state to an idle state. -/
def cycle (keys edges : BitVec 16) (s : State) : Outcome :=
  if s.run = .halted then .next s
  else
    match batch s.cfg.speed (beginCycle keys edges s) with
    | .next t => .next (finishCycle t)
    | .fault r => .fault r
    | .refused r => .refused r

end Sys2Proof.Machine
end

