-- ==== Sys2Proof/WellFormed.lean ====
section
/-!
DEFINITION. What is well formed: an instruction's operands and an instance's parameters.
-/

namespace Sys2Proof

/-- Every term of `Instr` is well formed: each operand's TYPE has exactly the width of its field (30_encoding.md R102, R104), every
value of a field is legal (no register, address or row count is reserved), and so no separate check is left to make. -/
def Instr.wf (_ : Instr) : Bool := true

/-- The legal parameters of 00_scope.md R9: `STACK_DEPTH` is at least 16 (10_state.md R38, R48).
`SPEED` may be any natural number (40_engine.md R133) and `FONT_ROM` has its 80 bytes by type (20_memory.md R78). -/
def Params.wf (p : Params) : Bool := decide (16 ≤ p.stackDepth)

end Sys2Proof
end

