-- ==== Sys2Proof/Safety.lean ====
section
/-!
DEFINITION. The terms that claims use: what an instruction leaves unchanged, when a step runs an instruction, the set of
pixels a sprite covers, the bytes a store leaves, and the invariant of the machine.
-/

namespace Sys2Proof.Machine

/-- The state after an outcome, where there is one. -/
def stateOf : Outcome → Option State
  | .next t => some t
  | .fault _ => none
  | .refused _ => none

/-- An outcome with its next state changed by `f`. -/
def mapNext (f : State → State) : Outcome → Outcome
  | .next t => .next (f t)
  | .fault r => .fault r
  | .refused r => .refused r

/-- Every general register but those in `written` reads as before. -/
def RegsKept (written : List Reg) (s t : State) : Prop := ∀ r, r ∉ written → readV r t = readV r s

/-- Every byte of memory but those at the addresses in `written` reads as before. -/
def MemKept (written : List Addr) (s t : State) : Prop := ∀ a, a ∉ written → readMem a t = readMem a s

/-- The parts of the block's state that an instruction can write (10_state.md R30). -/
inductive Part where
  /-- `V0`..`VF`. -/
  | regs
  /-- `I`. -/
  | index
  /-- `PC`. -/
  | pc
  /-- `SP` and `STACK`. -/
  | stack
  /-- `DT`. -/
  | delay
  /-- `ST`. -/
  | sound
  /-- `FB`. -/
  | screen
  /-- `M`. -/
  | memory
  /-- `RUN` and `WAITX`. -/
  | runState
  /-- `FAULT_CODE`, `FAULT_PC`, `FAULT_OP` and `SOUND_GATE`. -/
  | faultRecord
  /-- The random source: the bytes lined up and the count of free values used. -/
  | random
  deriving DecidableEq, Repr

/-- The frame: every part but those listed is as before, register by register, byte by byte, pixel by pixel; and so are the
configuration, `STARTED`, the call in progress and the host's calls, which no instruction writes (10_state.md R48). -/
structure Kept (written : List Part) (s t : State) : Prop where
  regs : Part.regs ∉ written → ∀ r, readV r t = readV r s
  index : Part.index ∉ written → t.i = s.i
  pc : Part.pc ∉ written → t.pc = s.pc
  stack : Part.stack ∉ written → t.sp = s.sp ∧ t.stack = s.stack
  delay : Part.delay ∉ written → t.dt = s.dt
  sound : Part.sound ∉ written → t.st = s.st
  screen : Part.screen ∉ written → ∀ px py, pixel px py t = pixel px py s
  memory : Part.memory ∉ written → ∀ a, readMem a t = readMem a s
  runState : Part.runState ∉ written → t.run = s.run ∧ t.waitX = s.waitX
  faultRecord : Part.faultRecord ∉ written →
    t.faultCode = s.faultCode ∧ t.faultPc = s.faultPc ∧ t.faultOp = s.faultOp ∧ t.soundGate = s.soundGate
  random : Part.random ∉ written → t.randomBytes = s.randomBytes ∧ t.fresh = s.fresh
  rest : t.cfg = s.cfg ∧ t.started = s.started ∧ t.phase = s.phase ∧ t.keys = s.keys ∧ t.hostCalls = s.hostCalls

/-- The next step runs an instruction, the one after `count` others of this call (40_engine.md R133). -/
structure InBatch (count : Nat) (s : State) : Prop where
  phase : s.phase = .inCall count
  run : s.run = .running
  slots : count < s.cfg.speed

/-- The host's next call is `c`, and `rest` follow (log entry 2). -/
structure NextCallIs (c : HostCall) (rest : List HostCall) (s : State) : Prop where
  phase : s.phase = .idle
  calls : s.hostCalls = c :: rest

/-- The one bits of the `n`-row sprite at `I`, drawn at `(a, b)`, cover the pixel `(cx, cy)`: the set `S` of 45_display.md R253. -/
def spriteCovers (s : State) (a b n cx cy : Nat) : Bool :=
  (List.range n).any fun row => (List.range 8).any fun col =>
    (readMem (ea s.i row) s).getLsbD (7 - col) && (a + col) % 64 == cx && (b + row) % 32 == cy

/-- The byte at `a` once `V0`..`Vx` stand from `I` on: at the address `k` past `I` (mod 4096) it is `Vk` for `k ≤ x`, and elsewhere the
byte there was (44_index_memory.md R236). -/
def byteAfterStore (s : State) (x : Reg) (a : Addr) : Byte :=
  let k := (a - s.i).toNat
  if k ≤ x.toNat then readV (BitVec.ofNat 4 k) s else readMem a s

/-- The byte at `a` once the three decimal digits of `Vx`, the hundreds first, stand from `I` on (mod 4096), and elsewhere the byte
there was (44_index_memory.md R235). -/
def byteAfterDigits (s : State) (x : Reg) (a : Addr) : Byte :=
  let k := (a - s.i).toNat
  if k < 3 then BitVec.ofNat 8 ((readV x s).toNat / 10 ^ (2 - k) % 10) else readMem a s

/-- The invariant of the machine: what the spec says of every state a run from reset can reach. -/
structure State.Inv (s : State) : Prop where
  /-- Memory is in its canonical form. -/
  memory : s.mem.wf
  /-- The parameters are legal (00_scope.md R9). -/
  params : s.cfg.wf = true
  /-- The stack has `STACK_DEPTH` slots (10_state.md R38). -/
  slots : s.stack.length = s.cfg.stackDepth
  /-- `SP` is in `0..STACK_DEPTH` (10_state.md R38). -/
  depth : s.sp ≤ s.cfg.stackDepth
  /-- A fault is recorded exactly when the machine is halted (60_exceptions.md R302, R303; 20_memory.md R82). -/
  recorded : s.run = .halted ↔ s.faultCode ≠ .none
  /-- Halted, the machine is between transactions (40_engine.md R134) and the sound gate is off (60_exceptions.md R322). -/
  halted : s.run = .halted → s.phase = .idle ∧ s.soundGate = false
  /-- `FAULT_PC` and `FAULT_OP` are 0 without a fault and after `ProgramTooLarge` (60_exceptions.md R301). -/
  blank : s.faultCode = .none ∨ s.faultCode = .programTooLarge → s.faultPc = 0 ∧ s.faultOp = 0
  /-- A call in progress has set `STARTED` and run at most `SPEED` instructions (40_engine.md R130, R133). -/
  call : ∀ count, s.phase = .inCall count → s.started = true ∧ count ≤ s.cfg.speed
  /-- Between calls the sound gate says whether `ST` is positive, unless the machine is halted (10_state.md R46). -/
  gate : s.phase = .idle → s.run ≠ .halted → s.soundGate = decide (0 < s.st.toNat)
  /-- Before the first `cycle` no timer runs, no sound is on, nobody waits for a key, and the only error there can be is a load's
  (10_state.md R47, R55; 20_memory.md R84). -/
  fresh : s.started = false →
    s.st = 0 ∧ s.soundGate = false ∧ s.run ≠ .waitingForKey ∧ (s.faultCode = .none ∨ s.faultCode = .programTooLarge)

end Sys2Proof.Machine
end

