-- ==== Sys2Proof/Certificates/Slice0/Obligations.lean ====
section
/-!
DEFINITION. The statements for the provers. Each says which rule or section of spec/ it formalises; a clause that rests on a
decision the spec marks as its own (D<n> of spec/92_eei_decisions.md) or on a choice of the model (a log entry) says so.
-/

open Sys2Proof Sys2Proof.Machine

/-! ## Encoding (30_encoding.md) -/

/-- Decode and encode agree: every well-formed instruction, with every value of every operand, comes back from its word
(30_encoding.md sections 1 and 2, the formats of R103 and the rows of R110). -/
def Obligations.DecodeOfEncodeIsTheInstruction : Prop :=
  ∀ i : Instr, i.wf = true → decode (encode i) = .ok i

/-- The other direction: a word that decodes is the word of the instruction it decodes to, so no bit of it is dropped, the ignored
`y` of SHR and SHL included (log entry 13). -/
def Obligations.EncodeOfDecodeIsTheWord : Prop :=
  ∀ (op : Word) (i : Instr), decode op = .ok i → encode i = op

/-- A word matching no row of the dispatch table is `UnknownOpcode`, and a word matching a row decodes to an instruction of that
row (R107; the counts of R107 and the derivation of R106 are the spec's own and are not part of this). -/
def Obligations.DecodeFollowsTheDispatchTable : Prop :=
  ∀ op : Word,
    ((∀ r ∈ opcodeTable, ¬r.selects op) → decode op = .error .unknownOpcode) ∧
      ∀ r ∈ opcodeTable, r.selects op → ∃ i, decode op = .ok i ∧ rowOf i = r

/-- No word matches two rows (R106, which the spec marks as derived from R110). -/
def Obligations.NoWordMatchesTwoRows : Prop :=
  ∀ (op : Word), ∀ r ∈ opcodeTable, ∀ q ∈ opcodeTable, r.selects op → q.selects op → r = q

/-- The spec's example words, one or more a family, decode to the instructions they stand for (95_test_vectors.md part B). -/
def Obligations.ExampleWordsDecode : Prop :=
  decode 0x00E0 = .ok .cls ∧ decode 0x00EE = .ok .ret ∧ decode 0x1ABC = .ok (.jp 0xABC) ∧
    decode 0x2300 = .ok (.call 0x300) ∧ decode 0x3342 = .ok (.seVxNn 3 0x42) ∧ decode 0x5120 = .ok (.seVxVy 1 2) ∧
    decode 0x6A3C = .ok (.ldVxNn 0xA 0x3C) ∧ decode 0x8124 = .ok (.addVxVy 1 2) ∧ decode 0xA300 = .ok (.ldI 0x300) ∧
    decode 0xC30F = .ok (.rnd 3 0x0F) ∧ decode 0xD011 = .ok (.drw 0 1 1) ∧ decode 0xE09E = .ok (.skp 0) ∧
    decode 0xF255 = .ok (.ldMiVx 2) ∧ decode 0x0000 = .error .unknownOpcode ∧ decode 0x5121 = .error .unknownOpcode ∧
    decode 0x800F = .error .unknownOpcode ∧ decode 0xE09F = .error .unknownOpcode ∧ decode 0xF0FF = .error .unknownOpcode

/-! ## The engine (40_engine.md) -/

/-- A step inside a batch fetches the word at `PC`, high byte first and the second address mod 4096, advances `PC` by 2 mod 4096,
and runs exactly the instruction the word decodes to; then one more instruction has run, or, halted, the call is over
(40_engine.md sections 1 and 2; D15, D16, D19; the phase is the model's, log entry 1). -/
def Obligations.StepRunsTheDecodedInstruction : Prop :=
  ∀ (s : State) (count : Nat) (i : Instr), InBatch count s → i.wf = true →
    decode (readMem s.pc s ++ readMem (s.pc + 1) s) = .ok i →
    step s =
      match exec i { s with pc := s.pc + 2 } with
      | .next t => .next { t with phase := if t.run = .halted then .idle else .inCall (count + 1) }
      | .fault r => .fault r
      | .refused r => .refused r

/-- A word that matches no row takes the fatal error `UnknownOpcode` with its address and itself; `PC` keeps the advanced value,
nothing else changes, and the call is over (60_exceptions.md section 1; D4, D5, D19). -/
def Obligations.UnknownWordHaltsTheMachine : Prop :=
  ∀ (s : State) (count : Nat), InBatch count s →
    (∀ r ∈ opcodeTable, ¬r.selects (readMem s.pc s ++ readMem (s.pc + 1) s)) →
    step s = .next { s with
      pc := s.pc + 2, faultCode := .unknownOpcode, faultPc := s.pc,
      faultOp := readMem s.pc s ++ readMem (s.pc + 1) s, run := .halted, soundGate := false, phase := .idle }

/-- At the end of a batch (the slots used up, or a key awaited) each timer goes down by exactly 1 when positive and never below 0,
then the sound gate says whether `ST` is positive; nothing else changes and the call is over
(60_exceptions.md section 4; D18; a call while waiting ticks too, 40_engine.md section 1). -/
def Obligations.EndOfCycleTicksTheTimers : Prop :=
  ∀ (s : State) (count : Nat), s.phase = .inCall count → s.run ≠ .halted →
    ¬(s.run = .running ∧ count < s.cfg.speed) →
    ∃ t, step s = .next t ∧ t.dt.toNat = s.dt.toNat - 1 ∧ t.st.toNat = s.st.toNat - 1 ∧
      t.soundGate = decide (0 < s.st.toNat - 1) ∧
      Kept [] { s with dt := t.dt, st := t.st, soundGate := t.soundGate, phase := .idle } t

/-- A timer changes only at the end of a `cycle`, where it loses 1, by its own write instruction, or by `reset`: never by how
many instructions a call ran (40_engine.md section 3, 60_exceptions.md section 4, D18; the writes are 46_keys_timers.md section 3
and 10_state.md section 6; that a reset leaves 0 is 10_state.md section 13, the spec's decision D6, log entry 11). -/
def Obligations.TimersChangeOnlyAtTicksAndWrites : Prop :=
  ∀ s t : State, step s = .next t →
    (t.dt ≠ s.dt →
      (∃ count, s.phase = .inCall count ∧ batchGoesOn count s = false ∧ t.dt.toNat + 1 = s.dt.toNat) ∨
        (∃ count x, InBatch count s ∧ decode (fetchWord s) = .ok (.ldDtVx x) ∧ t.dt = readV x s) ∨
        (∃ speed, s.phase = .idle ∧ (nextCall s).1 = .reset speed ∧ t.dt = 0)) ∧
      (t.st ≠ s.st →
        (∃ count, s.phase = .inCall count ∧ batchGoesOn count s = false ∧ t.st.toNat + 1 = s.st.toNat) ∨
          (∃ count x, InBatch count s ∧ decode (fetchWord s) = .ok (.ldStVx x) ∧ t.st = readV x s) ∨
          (∃ speed, s.phase = .idle ∧ (nextCall s).1 = .reset speed ∧ t.st = 0))

/-- Running `step` through a call gives exactly what the one-function `cycle` of 40_engine.md section 1 gives, within
`SPEED + 2` steps (D1, D18, D19, D26; the split into steps is the model's, log entry 1). -/
def Obligations.StepsOfACallAreTheCycleTransaction : Prop :=
  ∀ (s : State) (keys edges : BitVec 16) (rest : List HostCall), NextCallIs (.cycle keys edges) rest s →
    ∃ k, k ≤ s.cfg.speed + 2 ∧ core.run k s = cycle keys edges { s with hostCalls := rest }

/-! ## Control transfer (41_flow.md) -/

/-- RET pops the return address into `PC`: `SP` goes down by 1, `PC` becomes `STACK[SP]`, and nothing else changes (R161's
execution; its underflow is stated in `ReturnOnEmptyStackHalts`). The slot must exist, which `State.Inv` says (log entry 10). -/
def Obligations.ReturnPopsTheReturnAddress : Prop :=
  ∀ s : State, 0 < s.sp → s.sp ≤ s.stack.length →
    ∃ t, exec .ret s = .next t ∧ s.stack[s.sp - 1]? = some t.pc ∧ t.sp = s.sp - 1 ∧ t.stack = s.stack ∧
      Kept [.pc, .stack] s t

/-- CALL pushes the already advanced `PC` and jumps: `STACK[SP]` becomes `PC`, `SP` goes up by 1, every other slot and everything
else is unchanged (R163's execution; its overflow is stated in `CallOnFullStackHalts`). -/
def Obligations.CallPushesTheAdvancedPc : Prop :=
  ∀ (s : State) (nnn : Addr), s.sp < s.cfg.stackDepth → s.stack.length = s.cfg.stackDepth →
    ∃ t, exec (.call nnn) s = .next t ∧ t.pc = nnn ∧ t.sp = s.sp + 1 ∧ t.stack[s.sp]? = some s.pc ∧
      (∀ k, k ≠ s.sp → t.stack[k]? = s.stack[k]?) ∧ Kept [.pc, .stack] s t

/-- RET on the empty stack takes `StackUnderflow`: the record holds the address and the word of the RET, `PC` keeps the advanced
value, `SP` stays 0, the machine is halted with the sound gate off and the call over (41_flow.md, 60_exceptions.md section 1;
D4, D5, D19). -/
def Obligations.ReturnOnEmptyStackHalts : Prop :=
  ∀ (s : State) (count : Nat), InBatch count s → readMem s.pc s ++ readMem (s.pc + 1) s = (0x00EE : Word) → s.sp = 0 →
    step s = .next { s with
      pc := s.pc + 2, faultCode := .stackUnderflow, faultPc := s.pc, faultOp := 0x00EE, run := .halted,
      soundGate := false, phase := .idle }

/-- CALL on the full stack takes `StackOverflow`: the record holds the address and the word of the CALL, `SP` and `STACK` are
unchanged, the machine is halted with the sound gate off and the call over (41_flow.md, 60_exceptions.md section 1; D2, D4, D5,
D19). -/
def Obligations.CallOnFullStackHalts : Prop :=
  ∀ (s : State) (count : Nat) (nnn : Addr), InBatch count s →
    readMem s.pc s ++ readMem (s.pc + 1) s = (0x2#4 ++ nnn : Word) → s.sp = s.cfg.stackDepth →
    step s = .next { s with
      pc := s.pc + 2, faultCode := .stackOverflow, faultPc := s.pc, faultOp := 0x2#4 ++ nnn, run := .halted,
      soundGate := false, phase := .idle }

/-- The scenario of the source: a CALL and then a RET, wherever the subroutine has moved `PC` to, come back to the address after
the CALL with the stack pointer as it was (41_flow.md). -/
def Obligations.CallThenReturnComesBack : Prop :=
  ∀ (s : State) (nnn p : Addr), s.sp < s.cfg.stackDepth → s.stack.length = s.cfg.stackDepth →
    ∃ t u, exec (.call nnn) s = .next t ∧ exec .ret { t with pc := p } = .next u ∧ u.pc = s.pc ∧ u.sp = s.sp ∧
      Kept [.stack] s u

/-- JP: the word `0001 nnnn nnnn nnnn` sets `PC` to its absolute target and changes nothing else (R162). -/
def Obligations.JumpSetsPc : Prop :=
  ∀ (s : State) (nnn : Addr),
    decode (0x1#4 ++ nnn) = .ok (.jp nnn) ∧ ∃ t, exec (.jp nnn) s = .next t ∧ t.pc = nnn ∧ Kept [.pc] s t

/-- JP V0 sets `PC` to `nnn + V0`, reduced mod 4096 (D15), always with register V0 (41_flow.md). -/
def Obligations.JumpWithOffsetAddsV0 : Prop :=
  ∀ (s : State) (nnn : Addr),
    ∃ t, exec (.jpV0 nnn) s = .next t ∧ t.pc.toNat = (nnn.toNat + (readV 0 s).toNat) % 4096 ∧ Kept [.pc] s t

/-! ## Skips (42_skip.md, 46_keys_timers.md) -/

/-- The four register skips add 2 to the already advanced `PC`, mod 4096 (D15), exactly when their comparison holds, and change
nothing else (42_skip.md). -/
def Obligations.RegisterSkipsMovePcByTwoOrNot : Prop :=
  ∀ (s : State) (x y : Reg) (nn : Byte),
    (∃ t, exec (.seVxNn x nn) s = .next t ∧ t.pc = (if readV x s = nn then s.pc + 2 else s.pc) ∧ Kept [.pc] s t) ∧
      (∃ t, exec (.sneVxNn x nn) s = .next t ∧ t.pc = (if readV x s = nn then s.pc else s.pc + 2) ∧ Kept [.pc] s t) ∧
      (∃ t, exec (.seVxVy x y) s = .next t ∧ t.pc = (if readV x s = readV y s then s.pc + 2 else s.pc) ∧
        Kept [.pc] s t) ∧
      (∃ t, exec (.sneVxVy x y) s = .next t ∧ t.pc = (if readV x s = readV y s then s.pc else s.pc + 2) ∧
        Kept [.pc] s t)

/-- SKP and SKNP test the call's key vector at the key `Vx mod 16` (D23) and skip when it is, or is not, pressed; nothing else
changes (46_keys_timers.md section 1; D8, D15). -/
def Obligations.KeySkipsTestTheLowNibble : Prop :=
  ∀ (s : State) (x : Reg),
    (∃ t, exec (.skp x) s = .next t ∧
      t.pc = (if s.keys.getLsbD ((readV x s).toNat % 16) then s.pc + 2 else s.pc) ∧ Kept [.pc] s t) ∧
      (∃ t, exec (.sknp x) s = .next t ∧
        t.pc = (if s.keys.getLsbD ((readV x s).toNat % 16) then s.pc else s.pc + 2) ∧ Kept [.pc] s t)

/-- The key vector is read by `Ex9E` and `ExA1` only: every other instruction does the same whatever keys are held (R51). -/
def Obligations.OnlyKeySkipsReadTheKeys : Prop :=
  ∀ (i : Instr) (s : State) (keys : BitVec 16), (∀ x, i ≠ .skp x ∧ i ≠ .sknp x) →
    exec i { s with keys := keys } = mapNext (fun t => { t with keys := keys }) (exec i s)

/-! ## Registers and ALU (43_alu.md) -/

/-- The words `6xnn` and `8xy0` write one register, whichever it is, and nothing else (R191, R193). -/
def Obligations.LoadsWriteOneRegister : Prop :=
  ∀ (s : State) (x y : Reg) (nn : Byte),
    decode (0x6#4 ++ x ++ nn) = .ok (.ldVxNn x nn) ∧ decode (0x8#4 ++ x ++ y ++ 0x0#4) = .ok (.ldVxVy x y) ∧
    (∃ t, exec (.ldVxNn x nn) s = .next t ∧ readV x t = nn ∧ RegsKept [x] s t ∧ Kept [.regs] s t) ∧
      (∃ t, exec (.ldVxVy x y) s = .next t ∧ readV x t = readV y s ∧ RegsKept [x] s t ∧ Kept [.regs] s t)

/-- The word `7xnn` adds mod 256 and writes no carry (R192). -/
def Obligations.AddImmediateWrapsWithoutCarry : Prop :=
  ∀ (s : State) (x : Reg) (nn : Byte),
    decode (0x7#4 ++ x ++ nn) = .ok (.addVxNn x nn) ∧
    ∃ t, exec (.addVxNn x nn) s = .next t ∧ (readV x t).toNat = ((readV x s).toNat + nn.toNat) % 256 ∧
      RegsKept [x] s t ∧ Kept [.regs] s t

/-- OR, AND and XOR write `Vx` bit by bit and leave every other register, VF included, unchanged (43_alu.md section 3; that VF is
not cleared is D21). -/
def Obligations.BitwiseOperationsWriteOnlyVx : Prop :=
  ∀ (s : State) (x y : Reg),
    (∃ t, exec (.or x y) s = .next t ∧
      (∀ k, (readV x t).getLsbD k = ((readV x s).getLsbD k || (readV y s).getLsbD k)) ∧
      RegsKept [x] s t ∧ Kept [.regs] s t) ∧
    (∃ t, exec (.and x y) s = .next t ∧
      (∀ k, (readV x t).getLsbD k = ((readV x s).getLsbD k && (readV y s).getLsbD k)) ∧
      RegsKept [x] s t ∧ Kept [.regs] s t) ∧
    (∃ t, exec (.xor x y) s = .next t ∧
      (∀ k, (readV x t).getLsbD k = ((readV x s).getLsbD k ^^ (readV y s).getLsbD k)) ∧
      RegsKept [x] s t ∧ Kept [.regs] s t)

/-- The testable laws of ADD and SUB (43_alu.md section 1): `8xy4` gives the sum mod 256 and `8xy5` the difference mod 256, and for `x ≠ 0xF` VF is 1 exactly
when the sum exceeds 255, or when `Vx ≥ Vy` before the write; for `x = 0xF` the result is what VF keeps (the spec's decision D17), and with `x` or `y` equal to `0xF`
the operand is the VF before the instruction (D16); both are log entry 18. -/
def Obligations.AddAndSubtractFlagLaws : Prop :=
  ∀ (s : State) (x y : Reg),
    (∃ t, exec (.addVxVy x y) s = .next t ∧
      (readV x t).toNat = ((readV x s).toNat + (readV y s).toNat) % 256 ∧
      (x ≠ 0xF → readV 0xF t = if 255 < (readV x s).toNat + (readV y s).toNat then 1 else 0) ∧
      RegsKept [x, 0xF] s t ∧ Kept [.regs] s t) ∧
    (∃ t, exec (.sub x y) s = .next t ∧
      (readV x t).toNat = ((readV x s).toNat + 256 - (readV y s).toNat) % 256 ∧
      (x ≠ 0xF → readV 0xF t = if (readV y s).toNat ≤ (readV x s).toNat then 1 else 0) ∧
      RegsKept [x, 0xF] s t ∧ Kept [.regs] s t)

/-- `8xy7` gives `Vy - Vx` mod 256 from the latched operands, and for `x ≠ 0xF` VF is 1 exactly when `Vy ≥ Vx`, equality
included; for `x = 0xF` VF keeps the result (43_alu.md section 4; D16, D17). -/
def Obligations.ReverseSubtractFlagLaw : Prop :=
  ∀ (s : State) (x y : Reg),
    ∃ t, exec (.subn x y) s = .next t ∧
      (readV x t).toNat = ((readV y s).toNat + 256 - (readV x s).toNat) % 256 ∧
      (x ≠ 0xF → readV 0xF t = if (readV x s).toNat ≤ (readV y s).toNat then 1 else 0) ∧
      RegsKept [x, 0xF] s t ∧ Kept [.regs] s t

/-- The shifts move `Vx` by one bit, put a zero in, and for `x ≠ 0xF` leave the bit shifted out in VF; for `x = 0xF` VF keeps the
result; the word's `y` plays no part (43_alu.md section 5; D16, D17). -/
def Obligations.ShiftsMoveVxByOneBit : Prop :=
  ∀ (s : State) (x y : Reg),
    (∃ t, exec (.shr x y) s = .next t ∧ (readV x t).toNat = (readV x s).toNat / 2 ∧
      (x ≠ 0xF → (readV 0xF t).toNat = (readV x s).toNat % 2) ∧ RegsKept [x, 0xF] s t ∧ Kept [.regs] s t) ∧
    (∃ t, exec (.shl x y) s = .next t ∧ (readV x t).toNat = 2 * (readV x s).toNat % 256 ∧
      (x ≠ 0xF → (readV 0xF t).toNat = (readV x s).toNat / 128) ∧ RegsKept [x, 0xF] s t ∧ Kept [.regs] s t)

/-- The word `Cxnn` draws exactly one byte and writes it under the mask: whatever the byte, the bits outside `nn` are 0, and `nn = 0` gives
0 (43_alu.md section 6; that any byte may come is D20, 10_state.md section 12). The clause on where the byte comes from, the next one
the host lined up or else a free value, is the model's choice, log entry 4. -/
def Obligations.RandomByteIsMasked : Prop :=
  ∀ (s : State) (x : Reg) (nn : Byte),
    decode (0xC#4 ++ x ++ nn) = .ok (.rnd x nn) ∧
    ∃ (t : State) (r : Byte), exec (.rnd x nn) s = .next t ∧ readV x t = r &&& nn ∧
      (∀ k, nn.getLsbD k = false → (readV x t).getLsbD k = false) ∧
      ((s.randomBytes = r :: t.randomBytes ∧ t.fresh = s.fresh) ∨
        (s.randomBytes = [] ∧ t.randomBytes = [] ∧ r = Config.freeByte s.fresh ∧ t.fresh = s.fresh + 1)) ∧
      RegsKept [x] s t ∧ Kept [.regs, .random] s t

/-! ## Index register and memory (44_index_memory.md, 20_memory.md) -/

/-- The words `Annn`, `Fx1E` and `Fx29` write `I`: the address, the sum mod 4096, and five times the whole byte; VF and everything else are
unchanged (R231, R233, R234). -/
def Obligations.IndexInstructionsWriteI : Prop :=
  ∀ (s : State) (x : Reg) (nnn : Addr),
    decode (0xA#4 ++ nnn) = .ok (.ldI nnn) ∧ decode (0xF#4 ++ x ++ 0x1E#8) = .ok (.addIVx x) ∧
      decode (0xF#4 ++ x ++ 0x29#8) = .ok (.ldFVx x) ∧
      (∃ t, exec (.ldI nnn) s = .next t ∧ t.i = nnn ∧ Kept [.index] s t) ∧
      (∃ t, exec (.addIVx x) s = .next t ∧ t.i.toNat = (s.i.toNat + (readV x s).toNat) % 4096 ∧ Kept [.index] s t) ∧
      (∃ t, exec (.ldFVx x) s = .next t ∧ t.i.toNat = (readV x s).toNat * 5 ∧ Kept [.index] s t)

/-- `Fx33` stores hundreds, tens and ones at `I`, `I + 1`, `I + 2` mod 4096 (D9), and every other byte and everything else is
unchanged (44_index_memory.md; that `I` is unchanged is D22). -/
def Obligations.DecimalDigitsAreStored : Prop :=
  ∀ (s : State) (x : Reg),
    ∃ t, exec (.ldBVx x) s = .next t ∧
      (readMem (indexAddr s 0) t).toNat = (readV x s).toNat / 100 ∧
      (readMem (indexAddr s 1) t).toNat = (readV x s).toNat / 10 % 10 ∧
      (readMem (indexAddr s 2) t).toNat = (readV x s).toNat % 10 ∧
      MemKept [indexAddr s 0, indexAddr s 1, indexAddr s 2] s t ∧ Kept [.memory] s t

/-- `Fx55` stores `V0`..`Vx` at ascending addresses from `I` mod 4096 (D9), and every other byte and everything else is unchanged
(44_index_memory.md; that `I` is unchanged is D22). -/
def Obligations.RegistersAreStored : Prop :=
  ∀ (s : State) (x : Reg),
    ∃ t, exec (.ldMiVx x) s = .next t ∧
      (∀ r : Reg, r ≤ x → readMem (indexAddr s r.toNat) t = readV r s) ∧
      (∀ a : Addr, (∀ r : Reg, r ≤ x → a ≠ indexAddr s r.toNat) → readMem a t = readMem a s) ∧ Kept [.memory] s t

/-- `Fx65` loads `V0`..`Vx` from ascending addresses from `I` mod 4096 (D9), and no other register, no byte of memory and nothing
else changes (44_index_memory.md; that `I` is unchanged is D22). -/
def Obligations.RegistersAreLoaded : Prop :=
  ∀ (s : State) (x : Reg),
    ∃ t, exec (.ldVxMi x) s = .next t ∧ (∀ r : Reg, r ≤ x → readV r t = readMem (indexAddr s r.toNat) s) ∧
      (∀ r : Reg, x < r → readV r t = readV r s) ∧ Kept [.regs] s t

/-- What `Fx55` stored, `Fx65` with the same `x` and the same `I` brings back, whatever the registers hold meanwhile
(44_index_memory.md; D9, D22). -/
def Obligations.StoreThenLoadRestoresTheRegisters : Prop :=
  ∀ (s : State) (x : Reg) (w : Vector Byte 16),
    ∃ t u, exec (.ldMiVx x) s = .next t ∧ exec (.ldVxMi x) { t with v := w } = .next u ∧
      ∀ r : Reg, r ≤ x → readV r u = readV r s

/-- Stores reach the instruction stream: after `Fx55` and after `Fx33`, wherever `I` points, a fetch from any address `p` reads the
stored bytes where they lie at `p` or `p + 1` and the old bytes elsewhere; the very next fetch is the one with `p = PC`, which the
store leaves alone (20_memory.md section 5, 44_index_memory.md; D9, D12, D22). -/
def Obligations.StoresAreSeenByTheNextFetch : Prop :=
  ∀ (s : State) (x : Reg) (p : Addr),
    (∃ t, exec (.ldMiVx x) s = .next t ∧ t.pc = s.pc ∧
      fetchWord { t with pc := p } = byteAfterStore s x p ++ byteAfterStore s x (p + 1)) ∧
    (∃ t, exec (.ldBVx x) s = .next t ∧ t.pc = s.pc ∧
      fetchWord { t with pc := p } = byteAfterDigits s x p ++ byteAfterDigits s x (p + 1))

/-! ## Framebuffer (45_display.md) -/

/-- CLS: the word `00E0` leaves every pixel false and changes nothing else (R251). -/
def Obligations.ClearLeavesEveryPixelFalse : Prop :=
  decode 0x00E0 = .ok .cls ∧ ∀ s : State, ∃ t, exec .cls s = .next t ∧ (∀ px py, pixel px py t = false) ∧ Kept [.screen] s t

/-- DRW: with `S` the pixels that the sprite's one bits cover, each counted mod 64 and mod 32, the framebuffer becomes `FB XOR S`;
VF is 1 when `S` meets a set pixel and 0 otherwise; nothing else changes. The coordinates are the latched `Vx`, `Vy`, VF included
(45_display.md R253 and R254 are marked derived by the spec; D9, D16). -/
def Obligations.DrawXorsTheSpriteAndReportsCollision : Prop :=
  ∀ (s : State) (x y : Reg) (n : BitVec 4),
    ∃ t, exec (.drw x y n) s = .next t ∧
      (∀ cx cy, cx < 64 → cy < 32 →
        pixel cx cy t = (pixel cx cy s ^^ spriteCovers s (readV x s).toNat (readV y s).toNat n.toNat cx cy)) ∧
      ((∃ cx cy, cx < 64 ∧ cy < 32 ∧ pixel cx cy s = true ∧
          spriteCovers s (readV x s).toNat (readV y s).toNat n.toNat cx cy = true) → readV 0xF t = 1) ∧
      ((∀ cx cy, cx < 64 → cy < 32 → pixel cx cy s = true →
          spriteCovers s (readV x s).toNat (readV y s).toNat n.toNat cx cy = false) → readV 0xF t = 0) ∧
      RegsKept [0xF] s t ∧ Kept [.regs, .screen] s t

/-- Drawing the same sprite twice at the same place restores the framebuffer (45_display.md R254, marked derived by the spec);
neither coordinate may be VF, which the first draw writes. -/
def Obligations.DrawingTwiceRestoresTheScreen : Prop :=
  ∀ (s : State) (x y : Reg) (n : BitVec 4), x ≠ 0xF → y ≠ 0xF →
    ∃ t u, exec (.drw x y n) s = .next t ∧ exec (.drw x y n) t = .next u ∧ ∀ px py, pixel px py u = pixel px py s

/-- Only `00E0` and `Dxyn` write the framebuffer (R41). -/
def Obligations.OnlyClearAndDrawWriteTheScreen : Prop :=
  ∀ (i : Instr) (s t : State), exec i s = .next t → i ≠ .cls → (∀ x y n, i ≠ .drw x y n) → t.fb = s.fb

/-! ## Keys and timers (46_keys_timers.md) -/

/-- `Fx0A` latches its register number and waits; `Vx` and everything else are unchanged until the wait resolves (R273). -/
def Obligations.WaitForKeyLatchesTheRegister : Prop :=
  ∀ (s : State) (x : Reg),
    ∃ t, exec (.ldVxK x) s = .next t ∧ t.waitX = x ∧ t.run = .waitingForKey ∧ Kept [.runState] s t

/-- `Fx07` reads `DT` into `Vx`; `Fx15` and `Fx18` write `DT` and `ST` from `Vx`; nothing else changes (R275, R276, R277 for one
execution; the ticks that follow are `EndOfCycleTicksTheTimers`). -/
def Obligations.TimerInstructionsMoveOneByte : Prop :=
  ∀ (s : State) (x : Reg),
    (∃ t, exec (.ldVxDt x) s = .next t ∧ readV x t = s.dt ∧ RegsKept [x] s t ∧ Kept [.regs] s t) ∧
      (∃ t, exec (.ldDtVx x) s = .next t ∧ t.dt = readV x s ∧ Kept [.delay] s t) ∧
      (∃ t, exec (.ldStVx x) s = .next t ∧ t.st = readV x s ∧ Kept [.sound] s t)

/-- `DT` is written by `Fx15` and read by `Fx07`; `ST` is written by `Fx18` and read by no instruction: an instruction that is
neither does the same whatever the timers hold, and leaves them so (R40; the decrement is `EndOfCycleTicksTheTimers`). -/
def Obligations.OnlyTimerInstructionsTouchTheTimers : Prop :=
  ∀ (i : Instr) (s : State) (b : Byte),
    ((∀ x, i ≠ .ldDtVx x ∧ i ≠ .ldVxDt x) →
      exec i { s with dt := b } = mapNext (fun t => { t with dt := b }) (exec i s)) ∧
      ((∀ x, i ≠ .ldStVx x) → exec i { s with st := b } = mapNext (fun t => { t with st := b }) (exec i s)) ∧
      ((∃ x, i = .ldStVx x) → exec i { s with st := b } = exec i s)

/-- A call that finds a newly pressed key while waiting writes the LOWEST such key code to `V[WAITX]`, resumes, and goes on to its
batch in the same call; nothing else but the call's own bookkeeping changes (46_keys_timers.md section 2; D24, D25, D26). -/
def Obligations.WaitResolvesOnTheLowestNewKey : Prop :=
  ∀ (s : State) (keys edges : BitVec 16) (rest : List HostCall), NextCallIs (.cycle keys edges) rest s →
    s.run = .waitingForKey → edges ≠ 0 →
    ∃ (t : State) (k : Nat), step s = .next t ∧ k < 16 ∧ edges.getLsbD k = true ∧
      (∀ j < k, edges.getLsbD j = false) ∧ readV s.waitX t = BitVec.ofNat 8 k ∧ RegsKept [s.waitX] s t ∧
      Kept [.regs] { s with
        run := .running, started := true, keys := keys, phase := .inCall 0, hostCalls := rest } t

/-- A call without a newly pressed key leaves a waiting machine waiting: no instruction runs, and the timers and the sound gate
are updated all the same (40_engine.md R131, marked derived by the spec; 90_conflicts.md C2). -/
def Obligations.WaitingCallOnlyTicksTheTimers : Prop :=
  ∀ (s : State) (keys : BitVec 16) (rest : List HostCall), NextCallIs (.cycle keys 0) rest s →
    s.run = .waitingForKey →
    ∃ t, core.run 2 s = .next t ∧ t.dt.toNat = s.dt.toNat - 1 ∧ t.st.toNat = s.st.toNat - 1 ∧
      t.soundGate = decide (0 < t.st.toNat) ∧
      Kept [] { s with
        dt := t.dt, st := t.st, soundGate := t.soundGate, started := true, keys := keys, hostCalls := rest } t

/-! ## Fatal errors, the host, reset (60_exceptions.md, 20_memory.md, 70_reset_and_hazards.md) -/

/-- `HALTED` is terminal for calls: a `cycle` changes nothing but the host's own list (60_exceptions.md R303; D19). -/
def Obligations.CycleWhileHaltedChangesNothing : Prop :=
  ∀ (s : State) (keys edges : BitVec 16) (rest : List HostCall), NextCallIs (.cycle keys edges) rest s →
    s.run = .halted → step s = .next { s with hostCalls := rest }

/-- Only `reset` leaves `HALTED` (60_exceptions.md R303; D19). -/
def Obligations.OnlyResetLeavesHalted : Prop :=
  ∀ s t : State, step s = .next t → s.run = .halted → t.run ≠ .halted →
    ∃ speed, s.phase = .idle ∧ (nextCall s).1 = .reset speed

/-- A running machine stops running only by `Fx0A`, or by the stack fault of a RET or a CALL: no other instruction changes `RUN`
or the fault record (40_engine.md R133, 60_exceptions.md R301; D4, D5, D31). -/
def Obligations.OnlyWaitAndStackFaultsStopTheBatch : Prop :=
  ∀ (i : Instr) (s t : State), exec i s = .next t →
    (t.run = s.run ∧ t.faultCode = s.faultCode ∧ t.faultPc = s.faultPc ∧ t.faultOp = s.faultOp ∧
        t.soundGate = s.soundGate) ∨
      (∃ x, i = .ldVxK x ∧ t.run = .waitingForKey) ∨
      (i = .ret ∧ s.sp = 0 ∧ t.run = .halted ∧ t.faultCode = .stackUnderflow) ∨
      (∃ nnn, i = .call nnn ∧ s.cfg.stackDepth ≤ s.sp ∧ t.run = .halted ∧ t.faultCode = .stackOverflow)

/-- The single writers of the rest of the state: `I` is written by `Annn`, `Fx1E`, `Fx29` only, memory by `Fx33`, `Fx55` only, the
stack by CALL and RET only (10_state.md sections 3 and 5, 20_memory.md section 3; D2, D22). -/
def Obligations.OnlyNamedInstructionsWriteIndexMemoryStack : Prop :=
  ∀ (i : Instr) (s t : State), exec i s = .next t →
    ((∀ nnn, i ≠ .ldI nnn) → (∀ x, i ≠ .addIVx x ∧ i ≠ .ldFVx x) → t.i = s.i) ∧
      ((∀ x, i ≠ .ldBVx x ∧ i ≠ .ldMiVx x) → t.mem = s.mem) ∧
      (i ≠ .ret → (∀ nnn, i ≠ .call nnn) → t.sp = s.sp ∧ t.stack = s.stack)

/-- No instruction reads or writes `STARTED`, the control state or the host's calls: the spec gives programs no way to them
(10_state.md sections 10 and 11; D13; the control state and the calls are the model's own fields, log entries 1, 2). -/
def Obligations.InstructionsLeaveTheHostSideAlone : Prop :=
  ∀ (i : Instr) (s : State) (started : Bool) (phase : Phase) (calls : List HostCall),
    exec i { s with started := started, phase := phase, hostCalls := calls } =
      mapNext (fun t => { t with started := started, phase := phase, hostCalls := calls }) (exec i s)

/-- `SPEED` is fixed for the life of the instance: no step but `reset` changes the configuration, and `reset` changes only
`SPEED`, to the value the host gives (70_reset_and_hazards.md R340, 60_exceptions.md R327; that the other parameters stay is the
model's, log entry 14). -/
def Obligations.ConfigurationIsFixed : Prop :=
  ∀ s t : State, step s = .next t →
    t.cfg = s.cfg ∨ ∃ speed, s.phase = .idle ∧ (nextCall s).1 = .reset speed ∧ t.cfg = { s.cfg with speed := speed }

/-- The state after `reset` (10_state.md R55; the values other than `PC` are D5, D6, D7, D13, and the host's side is the
model's, log entry 5). -/
def Obligations.ResetState : Prop :=
  State.reset.pc = 0x200 ∧ (∀ r, readV r State.reset = 0) ∧ (∀ a, readMem a State.reset = 0) ∧
    (∀ px py, pixel px py State.reset = false) ∧ State.reset.i = 0 ∧ State.reset.sp = 0 ∧
    State.reset.stack = List.replicate 16 0 ∧ State.reset.dt = 0 ∧ State.reset.st = 0 ∧
    State.reset.run = .running ∧ State.reset.waitX = 0 ∧ State.reset.faultCode = .none ∧ State.reset.faultPc = 0 ∧
    State.reset.faultOp = 0 ∧ State.reset.soundGate = false ∧ State.reset.started = false ∧
    State.reset.phase = .idle ∧ State.reset.cfg.speed = 10

/-- The host's `reset` gives the reset state with the host's `SPEED` and as many empty stack slots as the instance has, whatever its
`STACK_DEPTH`; the host's own side and the other parameters stay (70_reset_and_hazards.md R340; D6, D7; log entries 11, 14). -/
def Obligations.ResetCallRestoresTheResetState : Prop :=
  ∀ (s : State) (speed : Nat) (rest : List HostCall), NextCallIs (.reset speed) rest s →
    step s = .next { State.reset with
      cfg := { s.cfg with speed := speed }, stack := List.replicate s.cfg.stackDepth 0, hostCalls := rest, randomBytes := s.randomBytes, fresh := s.fresh }

/-- `load_program` copies its bytes verbatim from 0x200 on, so that reading them back yields exactly the bytes, and nothing else
changes; a program of no bytes and one of 3584 bytes are both legal (R81, R83; before the first `cycle`). -/
def Obligations.LoadedProgramReadsBack : Prop :=
  ∀ (s : State) (bytes : List Byte) (rest : List HostCall), NextCallIs (.loadProgram bytes) rest s →
    s.started = false → bytes.length ≤ 3584 →
    ∃ t, step s = .next t ∧
      (∀ j, ∀ h : j < bytes.length, readMem (BitVec.ofNat 12 (0x200 + j)) t = bytes[j]) ∧
      (∀ a : Addr, a.toNat < 0x200 ∨ 0x200 + bytes.length ≤ a.toNat → readMem a t = readMem a s) ∧
      Kept [.memory] { s with hostCalls := rest } t

/-- A program longer than 3584 bytes is refused before any byte is written: `ProgramTooLarge` is recorded, the machine is halted,
and nothing else changes (20_memory.md R80, R82; D14). -/
def Obligations.TooLargeProgramHaltsBeforeAnyWrite : Prop :=
  ∀ (s : State) (bytes : List Byte) (rest : List HostCall), NextCallIs (.loadProgram bytes) rest s →
    s.started = false → 3584 < bytes.length →
    step s = .next { s with faultCode := .programTooLarge, run := .halted, hostCalls := rest }

/-- `load_font` writes `FONT_ROM[j]` to address `j` for the 80 values of `j`, and nothing else (R79; the refusal after the first
`cycle` is `LoadsAfterTheFirstCycleAreRefused`). -/
def Obligations.FontIsLoadedAtZero : Prop :=
  ∀ (s : State) (rest : List HostCall), NextCallIs .loadFont rest s → s.started = false →
    ∃ t, step s = .next t ∧ (∀ j, ∀ h : j < 80, readMem (BitVec.ofNat 12 j) t = s.cfg.fontRom[j]) ∧
      (∀ a : Addr, 80 ≤ a.toNat → readMem a t = readMem a s) ∧ Kept [.memory] { s with hostCalls := rest } t

/-- A load while `STARTED = 1` is refused: the spec gives it no meaning (20_memory.md R84; D13). That a `cycle` which found the machine
halted does not count as the first one here is the model's choice, log entry 28. -/
def Obligations.LoadsAfterTheFirstCycleAreRefused : Prop :=
  ∀ (s : State) (bytes : List Byte) (rest : List HostCall), s.started = true →
    (NextCallIs (.loadProgram bytes) rest s → step s = .refused .loadAfterStart) ∧
      (NextCallIs .loadFont rest s → step s = .refused .loadAfterStart)

/-- A host that has lined up nothing calls `cycle` with SOME key vectors: what the step does is what it does with those vectors
lined up (the model's choice, log entry 2; 60_exceptions.md R327 leaves the vectors to the host). -/
def Obligations.UnscriptedHostCallsCycle : Prop :=
  ∀ s : State, s.phase = .idle → s.hostCalls = [] →
    ∃ keys edges, step s = step { s with hostCalls := [.cycle keys edges], fresh := s.fresh + 1 }

/-! ## The invariant -/

/-- The invariant holds after reset. -/
def Obligations.InvariantHoldsAtReset : Prop := State.reset.Inv

/-- Every step keeps the invariant, from every state that has it: memory canonical, `SP` and `STACK` in range, a fault recorded
exactly when halted, the gate off while halted and otherwise telling `ST > 0` between calls, at most `SPEED` instructions a call
(10_state.md, 60_exceptions.md; the spec's decisions D2, D4 to D7, D13, D14, D19, D27). -/
def Obligations.StepKeepsTheInvariant : Prop :=
  ∀ s t : State, s.Inv → step s = .next t → t.Inv

/-- Under the invariant a step never faults, and is refused only for a load after the first `cycle`: no instruction stops the
machine other than by the spec's own fatal errors, which are next states (60_exceptions.md R301, 00_scope.md R14). -/
def Obligations.NoStepFaultsUnderTheInvariant : Prop :=
  ∀ s : State, s.Inv →
    (∃ t, step s = .next t) ∨
      (step s = .refused .loadAfterStart ∧ s.phase = .idle ∧ s.started = true ∧
        ((nextCall s).1 = .loadFont ∨ ∃ bytes, (nextCall s).1 = .loadProgram bytes))

/-! ## The start of a call (40_engine.md) -/

/-- A `cycle` that finds the machine running sets `STARTED`, fixes the call's key vector, and enters its batch with no instruction run
yet; nothing else changes, whatever the key edges (40_engine.md section 1; 10_state.md sections 10 and 12; D8, D13; the control state
and the host's list are the model's, log entries 1, 2, 25). -/
def Obligations.RunningCallEntersItsBatch : Prop :=
  ∀ (s : State) (keys edges : BitVec 16) (rest : List HostCall), NextCallIs (.cycle keys edges) rest s →
    s.run = .running →
    step s = .next { s with started := true, keys := keys, phase := .inCall 0, hostCalls := rest }
end

