-- ==== Sys2Proof/Laws/Decode.lean ====
section
/-!
SUPPORT. The fields of a word built by a format are the ones it was built from (spec/30_encoding.md R102, R103).
-/

namespace Sys2Proof

theorem fmtAddr_fields (f : BitVec 4) (nnn : Addr) : opFamily (fmtAddr f nnn) = f ∧ opNNN (fmtAddr f nnn) = nnn := by
  constructor <;> ext k hk <;> simp [opFamily, opNNN, fmtAddr] <;> grind

theorem fmtXnn_fields (f : BitVec 4) (x : Reg) (nn : Byte) :
    opFamily (fmtXnn f x nn) = f ∧ opX (fmtXnn f x nn) = x ∧ opNN (fmtXnn f x nn) = nn := by
  refine ⟨?_, ?_, ?_⟩ <;> ext k hk <;> simp [opFamily, opX, opNN, fmtXnn] <;> grind

theorem fmtXyn_fields (f : BitVec 4) (x y : Reg) (n : BitVec 4) :
    opFamily (fmtXyn f x y n) = f ∧ opX (fmtXyn f x y n) = x ∧ opY (fmtXyn f x y n) = y ∧ opN (fmtXyn f x y n) = n := by
  refine ⟨?_, ?_, ?_, ?_⟩ <;> ext k hk <;> simp [opFamily, opX, opY, opN, fmtXyn] <;> grind

theorem fmtX_fields (f : BitVec 4) (x : Reg) (sub : Byte) :
    opFamily (fmtX f x sub) = f ∧ opX (fmtX f x sub) = x ∧ opNN (fmtX f x sub) = sub := fmtXnn_fields f x sub

end Sys2Proof
end

