-- ==== Sys2Proof/Laws/State.lean ====
section
/-!
SUPPORT. One lemma per field per named update of the state, and per reader the updates that leave it alone.
-/

namespace Sys2Proof.Machine

variable (s : State)

/-! `writeV` -/

@[simp] theorem writeV_cfg (x : Reg) (b : Byte) : (writeV x b s).cfg = s.cfg := rfl
@[simp] theorem writeV_mem (x : Reg) (b : Byte) : (writeV x b s).mem = s.mem := rfl
@[simp] theorem writeV_v (x : Reg) (b : Byte) : (writeV x b s).v = s.v.set x.toNat b x.isLt := rfl
@[simp] theorem writeV_i (x : Reg) (b : Byte) : (writeV x b s).i = s.i := rfl
@[simp] theorem writeV_pc (x : Reg) (b : Byte) : (writeV x b s).pc = s.pc := rfl
@[simp] theorem writeV_stack (x : Reg) (b : Byte) : (writeV x b s).stack = s.stack := rfl
@[simp] theorem writeV_sp (x : Reg) (b : Byte) : (writeV x b s).sp = s.sp := rfl
@[simp] theorem writeV_dt (x : Reg) (b : Byte) : (writeV x b s).dt = s.dt := rfl
@[simp] theorem writeV_st (x : Reg) (b : Byte) : (writeV x b s).st = s.st := rfl
@[simp] theorem writeV_fb (x : Reg) (b : Byte) : (writeV x b s).fb = s.fb := rfl
@[simp] theorem writeV_run (x : Reg) (b : Byte) : (writeV x b s).run = s.run := rfl
@[simp] theorem writeV_waitX (x : Reg) (b : Byte) : (writeV x b s).waitX = s.waitX := rfl
@[simp] theorem writeV_faultCode (x : Reg) (b : Byte) : (writeV x b s).faultCode = s.faultCode := rfl
@[simp] theorem writeV_faultPc (x : Reg) (b : Byte) : (writeV x b s).faultPc = s.faultPc := rfl
@[simp] theorem writeV_faultOp (x : Reg) (b : Byte) : (writeV x b s).faultOp = s.faultOp := rfl
@[simp] theorem writeV_soundGate (x : Reg) (b : Byte) : (writeV x b s).soundGate = s.soundGate := rfl
@[simp] theorem writeV_started (x : Reg) (b : Byte) : (writeV x b s).started = s.started := rfl
@[simp] theorem writeV_phase (x : Reg) (b : Byte) : (writeV x b s).phase = s.phase := rfl
@[simp] theorem writeV_keys (x : Reg) (b : Byte) : (writeV x b s).keys = s.keys := rfl
@[simp] theorem writeV_hostCalls (x : Reg) (b : Byte) : (writeV x b s).hostCalls = s.hostCalls := rfl
@[simp] theorem writeV_randomBytes (x : Reg) (b : Byte) : (writeV x b s).randomBytes = s.randomBytes := rfl
@[simp] theorem writeV_fresh (x : Reg) (b : Byte) : (writeV x b s).fresh = s.fresh := rfl
@[simp] theorem readMem_writeV (q : Addr) (x : Reg) (b : Byte) : readMem q (writeV x b s) = readMem q s := rfl
@[simp] theorem pixel_writeV (cx cy : Nat) (x : Reg) (b : Byte) : pixel cx cy (writeV x b s) = pixel cx cy s := rfl

/-! `writeMem` -/

@[simp] theorem writeMem_cfg (a : Addr) (b : Byte) : (writeMem a b s).cfg = s.cfg := rfl
@[simp] theorem writeMem_mem (a : Addr) (b : Byte) : (writeMem a b s).mem = s.mem.write a.toNat b := rfl
@[simp] theorem writeMem_v (a : Addr) (b : Byte) : (writeMem a b s).v = s.v := rfl
@[simp] theorem writeMem_i (a : Addr) (b : Byte) : (writeMem a b s).i = s.i := rfl
@[simp] theorem writeMem_pc (a : Addr) (b : Byte) : (writeMem a b s).pc = s.pc := rfl
@[simp] theorem writeMem_stack (a : Addr) (b : Byte) : (writeMem a b s).stack = s.stack := rfl
@[simp] theorem writeMem_sp (a : Addr) (b : Byte) : (writeMem a b s).sp = s.sp := rfl
@[simp] theorem writeMem_dt (a : Addr) (b : Byte) : (writeMem a b s).dt = s.dt := rfl
@[simp] theorem writeMem_st (a : Addr) (b : Byte) : (writeMem a b s).st = s.st := rfl
@[simp] theorem writeMem_fb (a : Addr) (b : Byte) : (writeMem a b s).fb = s.fb := rfl
@[simp] theorem writeMem_run (a : Addr) (b : Byte) : (writeMem a b s).run = s.run := rfl
@[simp] theorem writeMem_waitX (a : Addr) (b : Byte) : (writeMem a b s).waitX = s.waitX := rfl
@[simp] theorem writeMem_faultCode (a : Addr) (b : Byte) : (writeMem a b s).faultCode = s.faultCode := rfl
@[simp] theorem writeMem_faultPc (a : Addr) (b : Byte) : (writeMem a b s).faultPc = s.faultPc := rfl
@[simp] theorem writeMem_faultOp (a : Addr) (b : Byte) : (writeMem a b s).faultOp = s.faultOp := rfl
@[simp] theorem writeMem_soundGate (a : Addr) (b : Byte) : (writeMem a b s).soundGate = s.soundGate := rfl
@[simp] theorem writeMem_started (a : Addr) (b : Byte) : (writeMem a b s).started = s.started := rfl
@[simp] theorem writeMem_phase (a : Addr) (b : Byte) : (writeMem a b s).phase = s.phase := rfl
@[simp] theorem writeMem_keys (a : Addr) (b : Byte) : (writeMem a b s).keys = s.keys := rfl
@[simp] theorem writeMem_hostCalls (a : Addr) (b : Byte) : (writeMem a b s).hostCalls = s.hostCalls := rfl
@[simp] theorem writeMem_randomBytes (a : Addr) (b : Byte) : (writeMem a b s).randomBytes = s.randomBytes := rfl
@[simp] theorem writeMem_fresh (a : Addr) (b : Byte) : (writeMem a b s).fresh = s.fresh := rfl
@[simp] theorem readV_writeMem (q : Reg) (a : Addr) (b : Byte) : readV q (writeMem a b s) = readV q s := rfl
@[simp] theorem pixel_writeMem (cx cy : Nat) (a : Addr) (b : Byte) : pixel cx cy (writeMem a b s) = pixel cx cy s := rfl

/-! `setPc` -/

@[simp] theorem setPc_cfg (a : Addr) : (setPc a s).cfg = s.cfg := rfl
@[simp] theorem setPc_mem (a : Addr) : (setPc a s).mem = s.mem := rfl
@[simp] theorem setPc_v (a : Addr) : (setPc a s).v = s.v := rfl
@[simp] theorem setPc_i (a : Addr) : (setPc a s).i = s.i := rfl
@[simp] theorem setPc_pc (a : Addr) : (setPc a s).pc = a := rfl
@[simp] theorem setPc_stack (a : Addr) : (setPc a s).stack = s.stack := rfl
@[simp] theorem setPc_sp (a : Addr) : (setPc a s).sp = s.sp := rfl
@[simp] theorem setPc_dt (a : Addr) : (setPc a s).dt = s.dt := rfl
@[simp] theorem setPc_st (a : Addr) : (setPc a s).st = s.st := rfl
@[simp] theorem setPc_fb (a : Addr) : (setPc a s).fb = s.fb := rfl
@[simp] theorem setPc_run (a : Addr) : (setPc a s).run = s.run := rfl
@[simp] theorem setPc_waitX (a : Addr) : (setPc a s).waitX = s.waitX := rfl
@[simp] theorem setPc_faultCode (a : Addr) : (setPc a s).faultCode = s.faultCode := rfl
@[simp] theorem setPc_faultPc (a : Addr) : (setPc a s).faultPc = s.faultPc := rfl
@[simp] theorem setPc_faultOp (a : Addr) : (setPc a s).faultOp = s.faultOp := rfl
@[simp] theorem setPc_soundGate (a : Addr) : (setPc a s).soundGate = s.soundGate := rfl
@[simp] theorem setPc_started (a : Addr) : (setPc a s).started = s.started := rfl
@[simp] theorem setPc_phase (a : Addr) : (setPc a s).phase = s.phase := rfl
@[simp] theorem setPc_keys (a : Addr) : (setPc a s).keys = s.keys := rfl
@[simp] theorem setPc_hostCalls (a : Addr) : (setPc a s).hostCalls = s.hostCalls := rfl
@[simp] theorem setPc_randomBytes (a : Addr) : (setPc a s).randomBytes = s.randomBytes := rfl
@[simp] theorem setPc_fresh (a : Addr) : (setPc a s).fresh = s.fresh := rfl
@[simp] theorem readV_setPc (q : Reg) (a : Addr) : readV q (setPc a s) = readV q s := rfl
@[simp] theorem readMem_setPc (q : Addr) (a : Addr) : readMem q (setPc a s) = readMem q s := rfl
@[simp] theorem pixel_setPc (cx cy : Nat) (a : Addr) : pixel cx cy (setPc a s) = pixel cx cy s := rfl

/-! `setI` -/

@[simp] theorem setI_cfg (a : Addr) : (setI a s).cfg = s.cfg := rfl
@[simp] theorem setI_mem (a : Addr) : (setI a s).mem = s.mem := rfl
@[simp] theorem setI_v (a : Addr) : (setI a s).v = s.v := rfl
@[simp] theorem setI_i (a : Addr) : (setI a s).i = a := rfl
@[simp] theorem setI_pc (a : Addr) : (setI a s).pc = s.pc := rfl
@[simp] theorem setI_stack (a : Addr) : (setI a s).stack = s.stack := rfl
@[simp] theorem setI_sp (a : Addr) : (setI a s).sp = s.sp := rfl
@[simp] theorem setI_dt (a : Addr) : (setI a s).dt = s.dt := rfl
@[simp] theorem setI_st (a : Addr) : (setI a s).st = s.st := rfl
@[simp] theorem setI_fb (a : Addr) : (setI a s).fb = s.fb := rfl
@[simp] theorem setI_run (a : Addr) : (setI a s).run = s.run := rfl
@[simp] theorem setI_waitX (a : Addr) : (setI a s).waitX = s.waitX := rfl
@[simp] theorem setI_faultCode (a : Addr) : (setI a s).faultCode = s.faultCode := rfl
@[simp] theorem setI_faultPc (a : Addr) : (setI a s).faultPc = s.faultPc := rfl
@[simp] theorem setI_faultOp (a : Addr) : (setI a s).faultOp = s.faultOp := rfl
@[simp] theorem setI_soundGate (a : Addr) : (setI a s).soundGate = s.soundGate := rfl
@[simp] theorem setI_started (a : Addr) : (setI a s).started = s.started := rfl
@[simp] theorem setI_phase (a : Addr) : (setI a s).phase = s.phase := rfl
@[simp] theorem setI_keys (a : Addr) : (setI a s).keys = s.keys := rfl
@[simp] theorem setI_hostCalls (a : Addr) : (setI a s).hostCalls = s.hostCalls := rfl
@[simp] theorem setI_randomBytes (a : Addr) : (setI a s).randomBytes = s.randomBytes := rfl
@[simp] theorem setI_fresh (a : Addr) : (setI a s).fresh = s.fresh := rfl
@[simp] theorem readV_setI (q : Reg) (a : Addr) : readV q (setI a s) = readV q s := rfl
@[simp] theorem readMem_setI (q : Addr) (a : Addr) : readMem q (setI a s) = readMem q s := rfl
@[simp] theorem pixel_setI (cx cy : Nat) (a : Addr) : pixel cx cy (setI a s) = pixel cx cy s := rfl

/-! `setDt` -/

@[simp] theorem setDt_cfg (b : Byte) : (setDt b s).cfg = s.cfg := rfl
@[simp] theorem setDt_mem (b : Byte) : (setDt b s).mem = s.mem := rfl
@[simp] theorem setDt_v (b : Byte) : (setDt b s).v = s.v := rfl
@[simp] theorem setDt_i (b : Byte) : (setDt b s).i = s.i := rfl
@[simp] theorem setDt_pc (b : Byte) : (setDt b s).pc = s.pc := rfl
@[simp] theorem setDt_stack (b : Byte) : (setDt b s).stack = s.stack := rfl
@[simp] theorem setDt_sp (b : Byte) : (setDt b s).sp = s.sp := rfl
@[simp] theorem setDt_dt (b : Byte) : (setDt b s).dt = b := rfl
@[simp] theorem setDt_st (b : Byte) : (setDt b s).st = s.st := rfl
@[simp] theorem setDt_fb (b : Byte) : (setDt b s).fb = s.fb := rfl
@[simp] theorem setDt_run (b : Byte) : (setDt b s).run = s.run := rfl
@[simp] theorem setDt_waitX (b : Byte) : (setDt b s).waitX = s.waitX := rfl
@[simp] theorem setDt_faultCode (b : Byte) : (setDt b s).faultCode = s.faultCode := rfl
@[simp] theorem setDt_faultPc (b : Byte) : (setDt b s).faultPc = s.faultPc := rfl
@[simp] theorem setDt_faultOp (b : Byte) : (setDt b s).faultOp = s.faultOp := rfl
@[simp] theorem setDt_soundGate (b : Byte) : (setDt b s).soundGate = s.soundGate := rfl
@[simp] theorem setDt_started (b : Byte) : (setDt b s).started = s.started := rfl
@[simp] theorem setDt_phase (b : Byte) : (setDt b s).phase = s.phase := rfl
@[simp] theorem setDt_keys (b : Byte) : (setDt b s).keys = s.keys := rfl
@[simp] theorem setDt_hostCalls (b : Byte) : (setDt b s).hostCalls = s.hostCalls := rfl
@[simp] theorem setDt_randomBytes (b : Byte) : (setDt b s).randomBytes = s.randomBytes := rfl
@[simp] theorem setDt_fresh (b : Byte) : (setDt b s).fresh = s.fresh := rfl
@[simp] theorem readV_setDt (q : Reg) (b : Byte) : readV q (setDt b s) = readV q s := rfl
@[simp] theorem readMem_setDt (q : Addr) (b : Byte) : readMem q (setDt b s) = readMem q s := rfl
@[simp] theorem pixel_setDt (cx cy : Nat) (b : Byte) : pixel cx cy (setDt b s) = pixel cx cy s := rfl

/-! `setSt` -/

@[simp] theorem setSt_cfg (b : Byte) : (setSt b s).cfg = s.cfg := rfl
@[simp] theorem setSt_mem (b : Byte) : (setSt b s).mem = s.mem := rfl
@[simp] theorem setSt_v (b : Byte) : (setSt b s).v = s.v := rfl
@[simp] theorem setSt_i (b : Byte) : (setSt b s).i = s.i := rfl
@[simp] theorem setSt_pc (b : Byte) : (setSt b s).pc = s.pc := rfl
@[simp] theorem setSt_stack (b : Byte) : (setSt b s).stack = s.stack := rfl
@[simp] theorem setSt_sp (b : Byte) : (setSt b s).sp = s.sp := rfl
@[simp] theorem setSt_dt (b : Byte) : (setSt b s).dt = s.dt := rfl
@[simp] theorem setSt_st (b : Byte) : (setSt b s).st = b := rfl
@[simp] theorem setSt_fb (b : Byte) : (setSt b s).fb = s.fb := rfl
@[simp] theorem setSt_run (b : Byte) : (setSt b s).run = s.run := rfl
@[simp] theorem setSt_waitX (b : Byte) : (setSt b s).waitX = s.waitX := rfl
@[simp] theorem setSt_faultCode (b : Byte) : (setSt b s).faultCode = s.faultCode := rfl
@[simp] theorem setSt_faultPc (b : Byte) : (setSt b s).faultPc = s.faultPc := rfl
@[simp] theorem setSt_faultOp (b : Byte) : (setSt b s).faultOp = s.faultOp := rfl
@[simp] theorem setSt_soundGate (b : Byte) : (setSt b s).soundGate = s.soundGate := rfl
@[simp] theorem setSt_started (b : Byte) : (setSt b s).started = s.started := rfl
@[simp] theorem setSt_phase (b : Byte) : (setSt b s).phase = s.phase := rfl
@[simp] theorem setSt_keys (b : Byte) : (setSt b s).keys = s.keys := rfl
@[simp] theorem setSt_hostCalls (b : Byte) : (setSt b s).hostCalls = s.hostCalls := rfl
@[simp] theorem setSt_randomBytes (b : Byte) : (setSt b s).randomBytes = s.randomBytes := rfl
@[simp] theorem setSt_fresh (b : Byte) : (setSt b s).fresh = s.fresh := rfl
@[simp] theorem readV_setSt (q : Reg) (b : Byte) : readV q (setSt b s) = readV q s := rfl
@[simp] theorem readMem_setSt (q : Addr) (b : Byte) : readMem q (setSt b s) = readMem q s := rfl
@[simp] theorem pixel_setSt (cx cy : Nat) (b : Byte) : pixel cx cy (setSt b s) = pixel cx cy s := rfl

/-! `setStack` -/

@[simp] theorem setStack_cfg (l : List Addr) (n : Nat) : (setStack l n s).cfg = s.cfg := rfl
@[simp] theorem setStack_mem (l : List Addr) (n : Nat) : (setStack l n s).mem = s.mem := rfl
@[simp] theorem setStack_v (l : List Addr) (n : Nat) : (setStack l n s).v = s.v := rfl
@[simp] theorem setStack_i (l : List Addr) (n : Nat) : (setStack l n s).i = s.i := rfl
@[simp] theorem setStack_pc (l : List Addr) (n : Nat) : (setStack l n s).pc = s.pc := rfl
@[simp] theorem setStack_stack (l : List Addr) (n : Nat) : (setStack l n s).stack = l := rfl
@[simp] theorem setStack_sp (l : List Addr) (n : Nat) : (setStack l n s).sp = n := rfl
@[simp] theorem setStack_dt (l : List Addr) (n : Nat) : (setStack l n s).dt = s.dt := rfl
@[simp] theorem setStack_st (l : List Addr) (n : Nat) : (setStack l n s).st = s.st := rfl
@[simp] theorem setStack_fb (l : List Addr) (n : Nat) : (setStack l n s).fb = s.fb := rfl
@[simp] theorem setStack_run (l : List Addr) (n : Nat) : (setStack l n s).run = s.run := rfl
@[simp] theorem setStack_waitX (l : List Addr) (n : Nat) : (setStack l n s).waitX = s.waitX := rfl
@[simp] theorem setStack_faultCode (l : List Addr) (n : Nat) : (setStack l n s).faultCode = s.faultCode := rfl
@[simp] theorem setStack_faultPc (l : List Addr) (n : Nat) : (setStack l n s).faultPc = s.faultPc := rfl
@[simp] theorem setStack_faultOp (l : List Addr) (n : Nat) : (setStack l n s).faultOp = s.faultOp := rfl
@[simp] theorem setStack_soundGate (l : List Addr) (n : Nat) : (setStack l n s).soundGate = s.soundGate := rfl
@[simp] theorem setStack_started (l : List Addr) (n : Nat) : (setStack l n s).started = s.started := rfl
@[simp] theorem setStack_phase (l : List Addr) (n : Nat) : (setStack l n s).phase = s.phase := rfl
@[simp] theorem setStack_keys (l : List Addr) (n : Nat) : (setStack l n s).keys = s.keys := rfl
@[simp] theorem setStack_hostCalls (l : List Addr) (n : Nat) : (setStack l n s).hostCalls = s.hostCalls := rfl
@[simp] theorem setStack_randomBytes (l : List Addr) (n : Nat) : (setStack l n s).randomBytes = s.randomBytes := rfl
@[simp] theorem setStack_fresh (l : List Addr) (n : Nat) : (setStack l n s).fresh = s.fresh := rfl
@[simp] theorem readV_setStack (q : Reg) (l : List Addr) (n : Nat) : readV q (setStack l n s) = readV q s := rfl
@[simp] theorem readMem_setStack (q : Addr) (l : List Addr) (n : Nat) : readMem q (setStack l n s) = readMem q s := rfl
@[simp] theorem pixel_setStack (cx cy : Nat) (l : List Addr) (n : Nat) : pixel cx cy (setStack l n s) = pixel cx cy s := rfl

/-! `setRun` -/

@[simp] theorem setRun_cfg (r : RunState) : (setRun r s).cfg = s.cfg := rfl
@[simp] theorem setRun_mem (r : RunState) : (setRun r s).mem = s.mem := rfl
@[simp] theorem setRun_v (r : RunState) : (setRun r s).v = s.v := rfl
@[simp] theorem setRun_i (r : RunState) : (setRun r s).i = s.i := rfl
@[simp] theorem setRun_pc (r : RunState) : (setRun r s).pc = s.pc := rfl
@[simp] theorem setRun_stack (r : RunState) : (setRun r s).stack = s.stack := rfl
@[simp] theorem setRun_sp (r : RunState) : (setRun r s).sp = s.sp := rfl
@[simp] theorem setRun_dt (r : RunState) : (setRun r s).dt = s.dt := rfl
@[simp] theorem setRun_st (r : RunState) : (setRun r s).st = s.st := rfl
@[simp] theorem setRun_fb (r : RunState) : (setRun r s).fb = s.fb := rfl
@[simp] theorem setRun_run (r : RunState) : (setRun r s).run = r := rfl
@[simp] theorem setRun_waitX (r : RunState) : (setRun r s).waitX = s.waitX := rfl
@[simp] theorem setRun_faultCode (r : RunState) : (setRun r s).faultCode = s.faultCode := rfl
@[simp] theorem setRun_faultPc (r : RunState) : (setRun r s).faultPc = s.faultPc := rfl
@[simp] theorem setRun_faultOp (r : RunState) : (setRun r s).faultOp = s.faultOp := rfl
@[simp] theorem setRun_soundGate (r : RunState) : (setRun r s).soundGate = s.soundGate := rfl
@[simp] theorem setRun_started (r : RunState) : (setRun r s).started = s.started := rfl
@[simp] theorem setRun_phase (r : RunState) : (setRun r s).phase = s.phase := rfl
@[simp] theorem setRun_keys (r : RunState) : (setRun r s).keys = s.keys := rfl
@[simp] theorem setRun_hostCalls (r : RunState) : (setRun r s).hostCalls = s.hostCalls := rfl
@[simp] theorem setRun_randomBytes (r : RunState) : (setRun r s).randomBytes = s.randomBytes := rfl
@[simp] theorem setRun_fresh (r : RunState) : (setRun r s).fresh = s.fresh := rfl
@[simp] theorem readV_setRun (q : Reg) (r : RunState) : readV q (setRun r s) = readV q s := rfl
@[simp] theorem readMem_setRun (q : Addr) (r : RunState) : readMem q (setRun r s) = readMem q s := rfl
@[simp] theorem pixel_setRun (cx cy : Nat) (r : RunState) : pixel cx cy (setRun r s) = pixel cx cy s := rfl

/-! `setPhase` -/

@[simp] theorem setPhase_cfg (p : Phase) : (setPhase p s).cfg = s.cfg := rfl
@[simp] theorem setPhase_mem (p : Phase) : (setPhase p s).mem = s.mem := rfl
@[simp] theorem setPhase_v (p : Phase) : (setPhase p s).v = s.v := rfl
@[simp] theorem setPhase_i (p : Phase) : (setPhase p s).i = s.i := rfl
@[simp] theorem setPhase_pc (p : Phase) : (setPhase p s).pc = s.pc := rfl
@[simp] theorem setPhase_stack (p : Phase) : (setPhase p s).stack = s.stack := rfl
@[simp] theorem setPhase_sp (p : Phase) : (setPhase p s).sp = s.sp := rfl
@[simp] theorem setPhase_dt (p : Phase) : (setPhase p s).dt = s.dt := rfl
@[simp] theorem setPhase_st (p : Phase) : (setPhase p s).st = s.st := rfl
@[simp] theorem setPhase_fb (p : Phase) : (setPhase p s).fb = s.fb := rfl
@[simp] theorem setPhase_run (p : Phase) : (setPhase p s).run = s.run := rfl
@[simp] theorem setPhase_waitX (p : Phase) : (setPhase p s).waitX = s.waitX := rfl
@[simp] theorem setPhase_faultCode (p : Phase) : (setPhase p s).faultCode = s.faultCode := rfl
@[simp] theorem setPhase_faultPc (p : Phase) : (setPhase p s).faultPc = s.faultPc := rfl
@[simp] theorem setPhase_faultOp (p : Phase) : (setPhase p s).faultOp = s.faultOp := rfl
@[simp] theorem setPhase_soundGate (p : Phase) : (setPhase p s).soundGate = s.soundGate := rfl
@[simp] theorem setPhase_started (p : Phase) : (setPhase p s).started = s.started := rfl
@[simp] theorem setPhase_phase (p : Phase) : (setPhase p s).phase = p := rfl
@[simp] theorem setPhase_keys (p : Phase) : (setPhase p s).keys = s.keys := rfl
@[simp] theorem setPhase_hostCalls (p : Phase) : (setPhase p s).hostCalls = s.hostCalls := rfl
@[simp] theorem setPhase_randomBytes (p : Phase) : (setPhase p s).randomBytes = s.randomBytes := rfl
@[simp] theorem setPhase_fresh (p : Phase) : (setPhase p s).fresh = s.fresh := rfl
@[simp] theorem readV_setPhase (q : Reg) (p : Phase) : readV q (setPhase p s) = readV q s := rfl
@[simp] theorem readMem_setPhase (q : Addr) (p : Phase) : readMem q (setPhase p s) = readMem q s := rfl
@[simp] theorem pixel_setPhase (cx cy : Nat) (p : Phase) : pixel cx cy (setPhase p s) = pixel cx cy s := rfl

/-! `skip` -/

@[simp] theorem skip_cfg : (skip s).cfg = s.cfg := rfl
@[simp] theorem skip_mem : (skip s).mem = s.mem := rfl
@[simp] theorem skip_v : (skip s).v = s.v := rfl
@[simp] theorem skip_i : (skip s).i = s.i := rfl
@[simp] theorem skip_pc : (skip s).pc = s.pc + 2 := rfl
@[simp] theorem skip_stack : (skip s).stack = s.stack := rfl
@[simp] theorem skip_sp : (skip s).sp = s.sp := rfl
@[simp] theorem skip_dt : (skip s).dt = s.dt := rfl
@[simp] theorem skip_st : (skip s).st = s.st := rfl
@[simp] theorem skip_fb : (skip s).fb = s.fb := rfl
@[simp] theorem skip_run : (skip s).run = s.run := rfl
@[simp] theorem skip_waitX : (skip s).waitX = s.waitX := rfl
@[simp] theorem skip_faultCode : (skip s).faultCode = s.faultCode := rfl
@[simp] theorem skip_faultPc : (skip s).faultPc = s.faultPc := rfl
@[simp] theorem skip_faultOp : (skip s).faultOp = s.faultOp := rfl
@[simp] theorem skip_soundGate : (skip s).soundGate = s.soundGate := rfl
@[simp] theorem skip_started : (skip s).started = s.started := rfl
@[simp] theorem skip_phase : (skip s).phase = s.phase := rfl
@[simp] theorem skip_keys : (skip s).keys = s.keys := rfl
@[simp] theorem skip_hostCalls : (skip s).hostCalls = s.hostCalls := rfl
@[simp] theorem skip_randomBytes : (skip s).randomBytes = s.randomBytes := rfl
@[simp] theorem skip_fresh : (skip s).fresh = s.fresh := rfl
@[simp] theorem readV_skip (q : Reg) : readV q (skip s) = readV q s := rfl
@[simp] theorem readMem_skip (q : Addr) : readMem q (skip s) = readMem q s := rfl
@[simp] theorem pixel_skip (cx cy : Nat) : pixel cx cy (skip s) = pixel cx cy s := rfl

/-! `advancePc` -/

@[simp] theorem advancePc_cfg : (advancePc s).cfg = s.cfg := rfl
@[simp] theorem advancePc_mem : (advancePc s).mem = s.mem := rfl
@[simp] theorem advancePc_v : (advancePc s).v = s.v := rfl
@[simp] theorem advancePc_i : (advancePc s).i = s.i := rfl
@[simp] theorem advancePc_pc : (advancePc s).pc = s.pc + 2 := rfl
@[simp] theorem advancePc_stack : (advancePc s).stack = s.stack := rfl
@[simp] theorem advancePc_sp : (advancePc s).sp = s.sp := rfl
@[simp] theorem advancePc_dt : (advancePc s).dt = s.dt := rfl
@[simp] theorem advancePc_st : (advancePc s).st = s.st := rfl
@[simp] theorem advancePc_fb : (advancePc s).fb = s.fb := rfl
@[simp] theorem advancePc_run : (advancePc s).run = s.run := rfl
@[simp] theorem advancePc_waitX : (advancePc s).waitX = s.waitX := rfl
@[simp] theorem advancePc_faultCode : (advancePc s).faultCode = s.faultCode := rfl
@[simp] theorem advancePc_faultPc : (advancePc s).faultPc = s.faultPc := rfl
@[simp] theorem advancePc_faultOp : (advancePc s).faultOp = s.faultOp := rfl
@[simp] theorem advancePc_soundGate : (advancePc s).soundGate = s.soundGate := rfl
@[simp] theorem advancePc_started : (advancePc s).started = s.started := rfl
@[simp] theorem advancePc_phase : (advancePc s).phase = s.phase := rfl
@[simp] theorem advancePc_keys : (advancePc s).keys = s.keys := rfl
@[simp] theorem advancePc_hostCalls : (advancePc s).hostCalls = s.hostCalls := rfl
@[simp] theorem advancePc_randomBytes : (advancePc s).randomBytes = s.randomBytes := rfl
@[simp] theorem advancePc_fresh : (advancePc s).fresh = s.fresh := rfl
@[simp] theorem readV_advancePc (q : Reg) : readV q (advancePc s) = readV q s := rfl
@[simp] theorem readMem_advancePc (q : Addr) : readMem q (advancePc s) = readMem q s := rfl
@[simp] theorem pixel_advancePc (cx cy : Nat) : pixel cx cy (advancePc s) = pixel cx cy s := rfl

/-! `raiseFault` -/

@[simp] theorem raiseFault_cfg (c : Cause) (p : Addr) (o : Word) : (raiseFault c p o s).cfg = s.cfg := rfl
@[simp] theorem raiseFault_mem (c : Cause) (p : Addr) (o : Word) : (raiseFault c p o s).mem = s.mem := rfl
@[simp] theorem raiseFault_v (c : Cause) (p : Addr) (o : Word) : (raiseFault c p o s).v = s.v := rfl
@[simp] theorem raiseFault_i (c : Cause) (p : Addr) (o : Word) : (raiseFault c p o s).i = s.i := rfl
@[simp] theorem raiseFault_pc (c : Cause) (p : Addr) (o : Word) : (raiseFault c p o s).pc = s.pc := rfl
@[simp] theorem raiseFault_stack (c : Cause) (p : Addr) (o : Word) : (raiseFault c p o s).stack = s.stack := rfl
@[simp] theorem raiseFault_sp (c : Cause) (p : Addr) (o : Word) : (raiseFault c p o s).sp = s.sp := rfl
@[simp] theorem raiseFault_dt (c : Cause) (p : Addr) (o : Word) : (raiseFault c p o s).dt = s.dt := rfl
@[simp] theorem raiseFault_st (c : Cause) (p : Addr) (o : Word) : (raiseFault c p o s).st = s.st := rfl
@[simp] theorem raiseFault_fb (c : Cause) (p : Addr) (o : Word) : (raiseFault c p o s).fb = s.fb := rfl
@[simp] theorem raiseFault_run (c : Cause) (p : Addr) (o : Word) : (raiseFault c p o s).run = .halted := rfl
@[simp] theorem raiseFault_waitX (c : Cause) (p : Addr) (o : Word) : (raiseFault c p o s).waitX = s.waitX := rfl
@[simp] theorem raiseFault_faultCode (c : Cause) (p : Addr) (o : Word) : (raiseFault c p o s).faultCode = c := rfl
@[simp] theorem raiseFault_faultPc (c : Cause) (p : Addr) (o : Word) : (raiseFault c p o s).faultPc = p := rfl
@[simp] theorem raiseFault_faultOp (c : Cause) (p : Addr) (o : Word) : (raiseFault c p o s).faultOp = o := rfl
@[simp] theorem raiseFault_soundGate (c : Cause) (p : Addr) (o : Word) : (raiseFault c p o s).soundGate = false := rfl
@[simp] theorem raiseFault_started (c : Cause) (p : Addr) (o : Word) : (raiseFault c p o s).started = s.started := rfl
@[simp] theorem raiseFault_phase (c : Cause) (p : Addr) (o : Word) : (raiseFault c p o s).phase = s.phase := rfl
@[simp] theorem raiseFault_keys (c : Cause) (p : Addr) (o : Word) : (raiseFault c p o s).keys = s.keys := rfl
@[simp] theorem raiseFault_hostCalls (c : Cause) (p : Addr) (o : Word) : (raiseFault c p o s).hostCalls = s.hostCalls := rfl
@[simp] theorem raiseFault_randomBytes (c : Cause) (p : Addr) (o : Word) : (raiseFault c p o s).randomBytes = s.randomBytes := rfl
@[simp] theorem raiseFault_fresh (c : Cause) (p : Addr) (o : Word) : (raiseFault c p o s).fresh = s.fresh := rfl
@[simp] theorem readV_raiseFault (q : Reg) (c : Cause) (p : Addr) (o : Word) : readV q (raiseFault c p o s) = readV q s := rfl
@[simp] theorem readMem_raiseFault (q : Addr) (c : Cause) (p : Addr) (o : Word) : readMem q (raiseFault c p o s) = readMem q s := rfl
@[simp] theorem pixel_raiseFault (cx cy : Nat) (c : Cause) (p : Addr) (o : Word) : pixel cx cy (raiseFault c p o s) = pixel cx cy s := rfl

/-! `setPixel` -/

@[simp] theorem setPixel_cfg (px py : Nat) (b : Bool) : (setPixel px py b s).cfg = s.cfg := rfl
@[simp] theorem setPixel_mem (px py : Nat) (b : Bool) : (setPixel px py b s).mem = s.mem := rfl
@[simp] theorem setPixel_v (px py : Nat) (b : Bool) : (setPixel px py b s).v = s.v := rfl
@[simp] theorem setPixel_i (px py : Nat) (b : Bool) : (setPixel px py b s).i = s.i := rfl
@[simp] theorem setPixel_pc (px py : Nat) (b : Bool) : (setPixel px py b s).pc = s.pc := rfl
@[simp] theorem setPixel_stack (px py : Nat) (b : Bool) : (setPixel px py b s).stack = s.stack := rfl
@[simp] theorem setPixel_sp (px py : Nat) (b : Bool) : (setPixel px py b s).sp = s.sp := rfl
@[simp] theorem setPixel_dt (px py : Nat) (b : Bool) : (setPixel px py b s).dt = s.dt := rfl
@[simp] theorem setPixel_st (px py : Nat) (b : Bool) : (setPixel px py b s).st = s.st := rfl
@[simp] theorem setPixel_run (px py : Nat) (b : Bool) : (setPixel px py b s).run = s.run := rfl
@[simp] theorem setPixel_waitX (px py : Nat) (b : Bool) : (setPixel px py b s).waitX = s.waitX := rfl
@[simp] theorem setPixel_faultCode (px py : Nat) (b : Bool) : (setPixel px py b s).faultCode = s.faultCode := rfl
@[simp] theorem setPixel_faultPc (px py : Nat) (b : Bool) : (setPixel px py b s).faultPc = s.faultPc := rfl
@[simp] theorem setPixel_faultOp (px py : Nat) (b : Bool) : (setPixel px py b s).faultOp = s.faultOp := rfl
@[simp] theorem setPixel_soundGate (px py : Nat) (b : Bool) : (setPixel px py b s).soundGate = s.soundGate := rfl
@[simp] theorem setPixel_started (px py : Nat) (b : Bool) : (setPixel px py b s).started = s.started := rfl
@[simp] theorem setPixel_phase (px py : Nat) (b : Bool) : (setPixel px py b s).phase = s.phase := rfl
@[simp] theorem setPixel_keys (px py : Nat) (b : Bool) : (setPixel px py b s).keys = s.keys := rfl
@[simp] theorem setPixel_hostCalls (px py : Nat) (b : Bool) : (setPixel px py b s).hostCalls = s.hostCalls := rfl
@[simp] theorem setPixel_randomBytes (px py : Nat) (b : Bool) : (setPixel px py b s).randomBytes = s.randomBytes := rfl
@[simp] theorem setPixel_fresh (px py : Nat) (b : Bool) : (setPixel px py b s).fresh = s.fresh := rfl
@[simp] theorem readV_setPixel (q : Reg) (px py : Nat) (b : Bool) : readV q (setPixel px py b s) = readV q s := rfl
@[simp] theorem readMem_setPixel (q : Addr) (px py : Nat) (b : Bool) : readMem q (setPixel px py b s) = readMem q s := rfl

/-! `clearScreen` -/

@[simp] theorem clearScreen_cfg : (clearScreen s).cfg = s.cfg := rfl
@[simp] theorem clearScreen_mem : (clearScreen s).mem = s.mem := rfl
@[simp] theorem clearScreen_v : (clearScreen s).v = s.v := rfl
@[simp] theorem clearScreen_i : (clearScreen s).i = s.i := rfl
@[simp] theorem clearScreen_pc : (clearScreen s).pc = s.pc := rfl
@[simp] theorem clearScreen_stack : (clearScreen s).stack = s.stack := rfl
@[simp] theorem clearScreen_sp : (clearScreen s).sp = s.sp := rfl
@[simp] theorem clearScreen_dt : (clearScreen s).dt = s.dt := rfl
@[simp] theorem clearScreen_st : (clearScreen s).st = s.st := rfl
@[simp] theorem clearScreen_fb : (clearScreen s).fb = Vector.replicate 64 (Vector.replicate 32 false) := rfl
@[simp] theorem clearScreen_run : (clearScreen s).run = s.run := rfl
@[simp] theorem clearScreen_waitX : (clearScreen s).waitX = s.waitX := rfl
@[simp] theorem clearScreen_faultCode : (clearScreen s).faultCode = s.faultCode := rfl
@[simp] theorem clearScreen_faultPc : (clearScreen s).faultPc = s.faultPc := rfl
@[simp] theorem clearScreen_faultOp : (clearScreen s).faultOp = s.faultOp := rfl
@[simp] theorem clearScreen_soundGate : (clearScreen s).soundGate = s.soundGate := rfl
@[simp] theorem clearScreen_started : (clearScreen s).started = s.started := rfl
@[simp] theorem clearScreen_phase : (clearScreen s).phase = s.phase := rfl
@[simp] theorem clearScreen_keys : (clearScreen s).keys = s.keys := rfl
@[simp] theorem clearScreen_hostCalls : (clearScreen s).hostCalls = s.hostCalls := rfl
@[simp] theorem clearScreen_randomBytes : (clearScreen s).randomBytes = s.randomBytes := rfl
@[simp] theorem clearScreen_fresh : (clearScreen s).fresh = s.fresh := rfl
@[simp] theorem readV_clearScreen (q : Reg) : readV q (clearScreen s) = readV q s := rfl
@[simp] theorem readMem_clearScreen (q : Addr) : readMem q (clearScreen s) = readMem q s := rfl

/-! `enterWait` -/

@[simp] theorem enterWait_cfg (x : Reg) : (enterWait x s).cfg = s.cfg := rfl
@[simp] theorem enterWait_mem (x : Reg) : (enterWait x s).mem = s.mem := rfl
@[simp] theorem enterWait_v (x : Reg) : (enterWait x s).v = s.v := rfl
@[simp] theorem enterWait_i (x : Reg) : (enterWait x s).i = s.i := rfl
@[simp] theorem enterWait_pc (x : Reg) : (enterWait x s).pc = s.pc := rfl
@[simp] theorem enterWait_stack (x : Reg) : (enterWait x s).stack = s.stack := rfl
@[simp] theorem enterWait_sp (x : Reg) : (enterWait x s).sp = s.sp := rfl
@[simp] theorem enterWait_dt (x : Reg) : (enterWait x s).dt = s.dt := rfl
@[simp] theorem enterWait_st (x : Reg) : (enterWait x s).st = s.st := rfl
@[simp] theorem enterWait_fb (x : Reg) : (enterWait x s).fb = s.fb := rfl
@[simp] theorem enterWait_run (x : Reg) : (enterWait x s).run = .waitingForKey := rfl
@[simp] theorem enterWait_waitX (x : Reg) : (enterWait x s).waitX = x := rfl
@[simp] theorem enterWait_faultCode (x : Reg) : (enterWait x s).faultCode = s.faultCode := rfl
@[simp] theorem enterWait_faultPc (x : Reg) : (enterWait x s).faultPc = s.faultPc := rfl
@[simp] theorem enterWait_faultOp (x : Reg) : (enterWait x s).faultOp = s.faultOp := rfl
@[simp] theorem enterWait_soundGate (x : Reg) : (enterWait x s).soundGate = s.soundGate := rfl
@[simp] theorem enterWait_started (x : Reg) : (enterWait x s).started = s.started := rfl
@[simp] theorem enterWait_phase (x : Reg) : (enterWait x s).phase = s.phase := rfl
@[simp] theorem enterWait_keys (x : Reg) : (enterWait x s).keys = s.keys := rfl
@[simp] theorem enterWait_hostCalls (x : Reg) : (enterWait x s).hostCalls = s.hostCalls := rfl
@[simp] theorem enterWait_randomBytes (x : Reg) : (enterWait x s).randomBytes = s.randomBytes := rfl
@[simp] theorem enterWait_fresh (x : Reg) : (enterWait x s).fresh = s.fresh := rfl
@[simp] theorem readV_enterWait (q : Reg) (x : Reg) : readV q (enterWait x s) = readV q s := rfl
@[simp] theorem readMem_enterWait (q : Addr) (x : Reg) : readMem q (enterWait x s) = readMem q s := rfl
@[simp] theorem pixel_enterWait (cx cy : Nat) (x : Reg) : pixel cx cy (enterWait x s) = pixel cx cy s := rfl

/-! `setRandom` -/

@[simp] theorem setRandom_cfg (l : List Byte) : (setRandom l s).cfg = s.cfg := rfl
@[simp] theorem setRandom_mem (l : List Byte) : (setRandom l s).mem = s.mem := rfl
@[simp] theorem setRandom_v (l : List Byte) : (setRandom l s).v = s.v := rfl
@[simp] theorem setRandom_i (l : List Byte) : (setRandom l s).i = s.i := rfl
@[simp] theorem setRandom_pc (l : List Byte) : (setRandom l s).pc = s.pc := rfl
@[simp] theorem setRandom_stack (l : List Byte) : (setRandom l s).stack = s.stack := rfl
@[simp] theorem setRandom_sp (l : List Byte) : (setRandom l s).sp = s.sp := rfl
@[simp] theorem setRandom_dt (l : List Byte) : (setRandom l s).dt = s.dt := rfl
@[simp] theorem setRandom_st (l : List Byte) : (setRandom l s).st = s.st := rfl
@[simp] theorem setRandom_fb (l : List Byte) : (setRandom l s).fb = s.fb := rfl
@[simp] theorem setRandom_run (l : List Byte) : (setRandom l s).run = s.run := rfl
@[simp] theorem setRandom_waitX (l : List Byte) : (setRandom l s).waitX = s.waitX := rfl
@[simp] theorem setRandom_faultCode (l : List Byte) : (setRandom l s).faultCode = s.faultCode := rfl
@[simp] theorem setRandom_faultPc (l : List Byte) : (setRandom l s).faultPc = s.faultPc := rfl
@[simp] theorem setRandom_faultOp (l : List Byte) : (setRandom l s).faultOp = s.faultOp := rfl
@[simp] theorem setRandom_soundGate (l : List Byte) : (setRandom l s).soundGate = s.soundGate := rfl
@[simp] theorem setRandom_started (l : List Byte) : (setRandom l s).started = s.started := rfl
@[simp] theorem setRandom_phase (l : List Byte) : (setRandom l s).phase = s.phase := rfl
@[simp] theorem setRandom_keys (l : List Byte) : (setRandom l s).keys = s.keys := rfl
@[simp] theorem setRandom_hostCalls (l : List Byte) : (setRandom l s).hostCalls = s.hostCalls := rfl
@[simp] theorem setRandom_randomBytes (l : List Byte) : (setRandom l s).randomBytes = l := rfl
@[simp] theorem setRandom_fresh (l : List Byte) : (setRandom l s).fresh = s.fresh := rfl
@[simp] theorem readV_setRandom (q : Reg) (l : List Byte) : readV q (setRandom l s) = readV q s := rfl
@[simp] theorem readMem_setRandom (q : Addr) (l : List Byte) : readMem q (setRandom l s) = readMem q s := rfl
@[simp] theorem pixel_setRandom (cx cy : Nat) (l : List Byte) : pixel cx cy (setRandom l s) = pixel cx cy s := rfl

/-! `useFresh` -/

@[simp] theorem useFresh_cfg : (useFresh s).cfg = s.cfg := rfl
@[simp] theorem useFresh_mem : (useFresh s).mem = s.mem := rfl
@[simp] theorem useFresh_v : (useFresh s).v = s.v := rfl
@[simp] theorem useFresh_i : (useFresh s).i = s.i := rfl
@[simp] theorem useFresh_pc : (useFresh s).pc = s.pc := rfl
@[simp] theorem useFresh_stack : (useFresh s).stack = s.stack := rfl
@[simp] theorem useFresh_sp : (useFresh s).sp = s.sp := rfl
@[simp] theorem useFresh_dt : (useFresh s).dt = s.dt := rfl
@[simp] theorem useFresh_st : (useFresh s).st = s.st := rfl
@[simp] theorem useFresh_fb : (useFresh s).fb = s.fb := rfl
@[simp] theorem useFresh_run : (useFresh s).run = s.run := rfl
@[simp] theorem useFresh_waitX : (useFresh s).waitX = s.waitX := rfl
@[simp] theorem useFresh_faultCode : (useFresh s).faultCode = s.faultCode := rfl
@[simp] theorem useFresh_faultPc : (useFresh s).faultPc = s.faultPc := rfl
@[simp] theorem useFresh_faultOp : (useFresh s).faultOp = s.faultOp := rfl
@[simp] theorem useFresh_soundGate : (useFresh s).soundGate = s.soundGate := rfl
@[simp] theorem useFresh_started : (useFresh s).started = s.started := rfl
@[simp] theorem useFresh_phase : (useFresh s).phase = s.phase := rfl
@[simp] theorem useFresh_keys : (useFresh s).keys = s.keys := rfl
@[simp] theorem useFresh_hostCalls : (useFresh s).hostCalls = s.hostCalls := rfl
@[simp] theorem useFresh_randomBytes : (useFresh s).randomBytes = s.randomBytes := rfl
@[simp] theorem useFresh_fresh : (useFresh s).fresh = s.fresh + 1 := rfl
@[simp] theorem readV_useFresh (q : Reg) : readV q (useFresh s) = readV q s := rfl
@[simp] theorem readMem_useFresh (q : Addr) : readMem q (useFresh s) = readMem q s := rfl
@[simp] theorem pixel_useFresh (cx cy : Nat) : pixel cx cy (useFresh s) = pixel cx cy s := rfl

/-! `setCalls` -/

@[simp] theorem setCalls_cfg (l : List HostCall) : (setCalls l s).cfg = s.cfg := rfl
@[simp] theorem setCalls_mem (l : List HostCall) : (setCalls l s).mem = s.mem := rfl
@[simp] theorem setCalls_v (l : List HostCall) : (setCalls l s).v = s.v := rfl
@[simp] theorem setCalls_i (l : List HostCall) : (setCalls l s).i = s.i := rfl
@[simp] theorem setCalls_pc (l : List HostCall) : (setCalls l s).pc = s.pc := rfl
@[simp] theorem setCalls_stack (l : List HostCall) : (setCalls l s).stack = s.stack := rfl
@[simp] theorem setCalls_sp (l : List HostCall) : (setCalls l s).sp = s.sp := rfl
@[simp] theorem setCalls_dt (l : List HostCall) : (setCalls l s).dt = s.dt := rfl
@[simp] theorem setCalls_st (l : List HostCall) : (setCalls l s).st = s.st := rfl
@[simp] theorem setCalls_fb (l : List HostCall) : (setCalls l s).fb = s.fb := rfl
@[simp] theorem setCalls_run (l : List HostCall) : (setCalls l s).run = s.run := rfl
@[simp] theorem setCalls_waitX (l : List HostCall) : (setCalls l s).waitX = s.waitX := rfl
@[simp] theorem setCalls_faultCode (l : List HostCall) : (setCalls l s).faultCode = s.faultCode := rfl
@[simp] theorem setCalls_faultPc (l : List HostCall) : (setCalls l s).faultPc = s.faultPc := rfl
@[simp] theorem setCalls_faultOp (l : List HostCall) : (setCalls l s).faultOp = s.faultOp := rfl
@[simp] theorem setCalls_soundGate (l : List HostCall) : (setCalls l s).soundGate = s.soundGate := rfl
@[simp] theorem setCalls_started (l : List HostCall) : (setCalls l s).started = s.started := rfl
@[simp] theorem setCalls_phase (l : List HostCall) : (setCalls l s).phase = s.phase := rfl
@[simp] theorem setCalls_keys (l : List HostCall) : (setCalls l s).keys = s.keys := rfl
@[simp] theorem setCalls_hostCalls (l : List HostCall) : (setCalls l s).hostCalls = l := rfl
@[simp] theorem setCalls_randomBytes (l : List HostCall) : (setCalls l s).randomBytes = s.randomBytes := rfl
@[simp] theorem setCalls_fresh (l : List HostCall) : (setCalls l s).fresh = s.fresh := rfl
@[simp] theorem readV_setCalls (q : Reg) (l : List HostCall) : readV q (setCalls l s) = readV q s := rfl
@[simp] theorem readMem_setCalls (q : Addr) (l : List HostCall) : readMem q (setCalls l s) = readMem q s := rfl
@[simp] theorem pixel_setCalls (cx cy : Nat) (l : List HostCall) : pixel cx cy (setCalls l s) = pixel cx cy s := rfl

/-! `failLoad` -/

@[simp] theorem failLoad_cfg : (failLoad s).cfg = s.cfg := rfl
@[simp] theorem failLoad_mem : (failLoad s).mem = s.mem := rfl
@[simp] theorem failLoad_v : (failLoad s).v = s.v := rfl
@[simp] theorem failLoad_i : (failLoad s).i = s.i := rfl
@[simp] theorem failLoad_pc : (failLoad s).pc = s.pc := rfl
@[simp] theorem failLoad_stack : (failLoad s).stack = s.stack := rfl
@[simp] theorem failLoad_sp : (failLoad s).sp = s.sp := rfl
@[simp] theorem failLoad_dt : (failLoad s).dt = s.dt := rfl
@[simp] theorem failLoad_st : (failLoad s).st = s.st := rfl
@[simp] theorem failLoad_fb : (failLoad s).fb = s.fb := rfl
@[simp] theorem failLoad_run : (failLoad s).run = .halted := rfl
@[simp] theorem failLoad_waitX : (failLoad s).waitX = s.waitX := rfl
@[simp] theorem failLoad_faultCode : (failLoad s).faultCode = .programTooLarge := rfl
@[simp] theorem failLoad_faultPc : (failLoad s).faultPc = s.faultPc := rfl
@[simp] theorem failLoad_faultOp : (failLoad s).faultOp = s.faultOp := rfl
@[simp] theorem failLoad_soundGate : (failLoad s).soundGate = s.soundGate := rfl
@[simp] theorem failLoad_started : (failLoad s).started = s.started := rfl
@[simp] theorem failLoad_phase : (failLoad s).phase = s.phase := rfl
@[simp] theorem failLoad_keys : (failLoad s).keys = s.keys := rfl
@[simp] theorem failLoad_hostCalls : (failLoad s).hostCalls = s.hostCalls := rfl
@[simp] theorem failLoad_randomBytes : (failLoad s).randomBytes = s.randomBytes := rfl
@[simp] theorem failLoad_fresh : (failLoad s).fresh = s.fresh := rfl
@[simp] theorem readV_failLoad (q : Reg) : readV q (failLoad s) = readV q s := rfl
@[simp] theorem readMem_failLoad (q : Addr) : readMem q (failLoad s) = readMem q s := rfl
@[simp] theorem pixel_failLoad (cx cy : Nat) : pixel cx cy (failLoad s) = pixel cx cy s := rfl

/-! `enterCycle` -/

@[simp] theorem enterCycle_cfg (k : BitVec 16) : (enterCycle k s).cfg = s.cfg := rfl
@[simp] theorem enterCycle_mem (k : BitVec 16) : (enterCycle k s).mem = s.mem := rfl
@[simp] theorem enterCycle_v (k : BitVec 16) : (enterCycle k s).v = s.v := rfl
@[simp] theorem enterCycle_i (k : BitVec 16) : (enterCycle k s).i = s.i := rfl
@[simp] theorem enterCycle_pc (k : BitVec 16) : (enterCycle k s).pc = s.pc := rfl
@[simp] theorem enterCycle_stack (k : BitVec 16) : (enterCycle k s).stack = s.stack := rfl
@[simp] theorem enterCycle_sp (k : BitVec 16) : (enterCycle k s).sp = s.sp := rfl
@[simp] theorem enterCycle_dt (k : BitVec 16) : (enterCycle k s).dt = s.dt := rfl
@[simp] theorem enterCycle_st (k : BitVec 16) : (enterCycle k s).st = s.st := rfl
@[simp] theorem enterCycle_fb (k : BitVec 16) : (enterCycle k s).fb = s.fb := rfl
@[simp] theorem enterCycle_run (k : BitVec 16) : (enterCycle k s).run = s.run := rfl
@[simp] theorem enterCycle_waitX (k : BitVec 16) : (enterCycle k s).waitX = s.waitX := rfl
@[simp] theorem enterCycle_faultCode (k : BitVec 16) : (enterCycle k s).faultCode = s.faultCode := rfl
@[simp] theorem enterCycle_faultPc (k : BitVec 16) : (enterCycle k s).faultPc = s.faultPc := rfl
@[simp] theorem enterCycle_faultOp (k : BitVec 16) : (enterCycle k s).faultOp = s.faultOp := rfl
@[simp] theorem enterCycle_soundGate (k : BitVec 16) : (enterCycle k s).soundGate = s.soundGate := rfl
@[simp] theorem enterCycle_started (k : BitVec 16) : (enterCycle k s).started = true := rfl
@[simp] theorem enterCycle_phase (k : BitVec 16) : (enterCycle k s).phase = .inCall 0 := rfl
@[simp] theorem enterCycle_keys (k : BitVec 16) : (enterCycle k s).keys = k := rfl
@[simp] theorem enterCycle_hostCalls (k : BitVec 16) : (enterCycle k s).hostCalls = s.hostCalls := rfl
@[simp] theorem enterCycle_randomBytes (k : BitVec 16) : (enterCycle k s).randomBytes = s.randomBytes := rfl
@[simp] theorem enterCycle_fresh (k : BitVec 16) : (enterCycle k s).fresh = s.fresh := rfl
@[simp] theorem readV_enterCycle (q : Reg) (k : BitVec 16) : readV q (enterCycle k s) = readV q s := rfl
@[simp] theorem readMem_enterCycle (q : Addr) (k : BitVec 16) : readMem q (enterCycle k s) = readMem q s := rfl
@[simp] theorem pixel_enterCycle (cx cy : Nat) (k : BitVec 16) : pixel cx cy (enterCycle k s) = pixel cx cy s := rfl

/-! `timerTick` -/

@[simp] theorem timerTick_cfg : (timerTick s).cfg = s.cfg := rfl
@[simp] theorem timerTick_mem : (timerTick s).mem = s.mem := rfl
@[simp] theorem timerTick_v : (timerTick s).v = s.v := rfl
@[simp] theorem timerTick_i : (timerTick s).i = s.i := rfl
@[simp] theorem timerTick_pc : (timerTick s).pc = s.pc := rfl
@[simp] theorem timerTick_stack : (timerTick s).stack = s.stack := rfl
@[simp] theorem timerTick_sp : (timerTick s).sp = s.sp := rfl
@[simp] theorem timerTick_dt : (timerTick s).dt = tickDown s.dt := rfl
@[simp] theorem timerTick_st : (timerTick s).st = tickDown s.st := rfl
@[simp] theorem timerTick_fb : (timerTick s).fb = s.fb := rfl
@[simp] theorem timerTick_run : (timerTick s).run = s.run := rfl
@[simp] theorem timerTick_waitX : (timerTick s).waitX = s.waitX := rfl
@[simp] theorem timerTick_faultCode : (timerTick s).faultCode = s.faultCode := rfl
@[simp] theorem timerTick_faultPc : (timerTick s).faultPc = s.faultPc := rfl
@[simp] theorem timerTick_faultOp : (timerTick s).faultOp = s.faultOp := rfl
@[simp] theorem timerTick_soundGate : (timerTick s).soundGate = s.soundGate := rfl
@[simp] theorem timerTick_started : (timerTick s).started = s.started := rfl
@[simp] theorem timerTick_phase : (timerTick s).phase = s.phase := rfl
@[simp] theorem timerTick_keys : (timerTick s).keys = s.keys := rfl
@[simp] theorem timerTick_hostCalls : (timerTick s).hostCalls = s.hostCalls := rfl
@[simp] theorem timerTick_randomBytes : (timerTick s).randomBytes = s.randomBytes := rfl
@[simp] theorem timerTick_fresh : (timerTick s).fresh = s.fresh := rfl
@[simp] theorem readV_timerTick (q : Reg) : readV q (timerTick s) = readV q s := rfl
@[simp] theorem readMem_timerTick (q : Addr) : readMem q (timerTick s) = readMem q s := rfl
@[simp] theorem pixel_timerTick (cx cy : Nat) : pixel cx cy (timerTick s) = pixel cx cy s := rfl

/-! `soundGateUpdate` -/

@[simp] theorem soundGateUpdate_cfg : (soundGateUpdate s).cfg = s.cfg := rfl
@[simp] theorem soundGateUpdate_mem : (soundGateUpdate s).mem = s.mem := rfl
@[simp] theorem soundGateUpdate_v : (soundGateUpdate s).v = s.v := rfl
@[simp] theorem soundGateUpdate_i : (soundGateUpdate s).i = s.i := rfl
@[simp] theorem soundGateUpdate_pc : (soundGateUpdate s).pc = s.pc := rfl
@[simp] theorem soundGateUpdate_stack : (soundGateUpdate s).stack = s.stack := rfl
@[simp] theorem soundGateUpdate_sp : (soundGateUpdate s).sp = s.sp := rfl
@[simp] theorem soundGateUpdate_dt : (soundGateUpdate s).dt = s.dt := rfl
@[simp] theorem soundGateUpdate_st : (soundGateUpdate s).st = s.st := rfl
@[simp] theorem soundGateUpdate_fb : (soundGateUpdate s).fb = s.fb := rfl
@[simp] theorem soundGateUpdate_run : (soundGateUpdate s).run = s.run := rfl
@[simp] theorem soundGateUpdate_waitX : (soundGateUpdate s).waitX = s.waitX := rfl
@[simp] theorem soundGateUpdate_faultCode : (soundGateUpdate s).faultCode = s.faultCode := rfl
@[simp] theorem soundGateUpdate_faultPc : (soundGateUpdate s).faultPc = s.faultPc := rfl
@[simp] theorem soundGateUpdate_faultOp : (soundGateUpdate s).faultOp = s.faultOp := rfl
@[simp] theorem soundGateUpdate_soundGate : (soundGateUpdate s).soundGate = (s.st != 0) := rfl
@[simp] theorem soundGateUpdate_started : (soundGateUpdate s).started = s.started := rfl
@[simp] theorem soundGateUpdate_phase : (soundGateUpdate s).phase = s.phase := rfl
@[simp] theorem soundGateUpdate_keys : (soundGateUpdate s).keys = s.keys := rfl
@[simp] theorem soundGateUpdate_hostCalls : (soundGateUpdate s).hostCalls = s.hostCalls := rfl
@[simp] theorem soundGateUpdate_randomBytes : (soundGateUpdate s).randomBytes = s.randomBytes := rfl
@[simp] theorem soundGateUpdate_fresh : (soundGateUpdate s).fresh = s.fresh := rfl
@[simp] theorem readV_soundGateUpdate (q : Reg) : readV q (soundGateUpdate s) = readV q s := rfl
@[simp] theorem readMem_soundGateUpdate (q : Addr) : readMem q (soundGateUpdate s) = readMem q s := rfl
@[simp] theorem pixel_soundGateUpdate (cx cy : Nat) : pixel cx cy (soundGateUpdate s) = pixel cx cy s := rfl

end Sys2Proof.Machine
end

