-- ==== Sys2Proof/Laws/Registers.lean ====
section
/-!
SUPPORT. Registers and flags: a read after a write, and the value of each flag.
-/

namespace Sys2Proof.Machine

/-- What a register reads as after any register write (10_state.md R31). -/
theorem readV_writeV (r x : Reg) (b : Byte) (s : State) : readV r (writeV x b s) = if r = x then b else readV r s := by
  simp only [readV, writeV, Vector.getElem_set, BitVec.toNat_inj]
  by_cases h : r = x
  · simp [h]
  · simp [h, Ne.symm h]

/-! The latches are reads of the state an instruction starts in (40_engine.md R138). -/

@[simp] theorem latchA_eq (x : Reg) (s : State) : latchA x s = readV x s := rfl
@[simp] theorem latchB_eq (y : Reg) (s : State) : latchB y s = readV y s := rfl
@[simp] theorem latchZ_eq (s : State) : latchZ s = readV 0 s := rfl

/-- What a register reads as after a flag write and a result write: the result in `Vx`, whichever register that is, else the
flag in VF (40_engine.md R139). -/
theorem readV_writeFlagThenResult (r x : Reg) (flag : Bool) (b : Byte) (s : State) :
    readV r (writeFlagThenResult x flag b s) = if r = x then b else if r = vf then flagByte flag else readV r s := by
  simp [writeFlagThenResult, readV_writeV]

theorem flagByte_eq_one (b : Bool) : flagByte b = 1 ↔ b = true := by cases b <;> decide

theorem carryOut_eq_true (a b : Byte) : carryOut a b = true ↔ 255 < a.toNat + b.toNat := by simp [carryOut]

theorem noBorrow_eq_true (a b : Byte) : noBorrow a b = true ↔ b.toNat ≤ a.toNat := by simp [noBorrow]

end Sys2Proof.Machine
end

