-- ==== Sys2Proof/Laws/Display.lean ====
section
/-!
SUPPORT. The framebuffer: what a pixel reads as after a write, a toggle, and a clear.
-/

namespace Sys2Proof.Machine

/-- What a pixel reads as after any pixel write: coordinates count mod 64 and mod 32 (45_display.md R250). -/
theorem pixel_setPixel (cx cy px py : Nat) (b : Bool) (s : State) :
    pixel cx cy (setPixel px py b s) = if cx % 64 = px % 64 ∧ cy % 32 = py % 32 then b else pixel cx cy s := by
  simp only [pixel, setPixel, Vector.getElem_set]
  by_cases hx : px % 64 = cx % 64
  · by_cases hy : py % 32 = cy % 32
    · simp [hx, hy]
    · simp [hx, hy, Ne.symm hy]
  · simp [hx, Ne.symm hx]

/-- A toggle answers the previous value and inverts exactly one pixel (45_display.md R250). -/
theorem toggle_spec (px py : Nat) (s : State) :
    (toggle px py s).1 = pixel px py s ∧
      ∀ cx cy, pixel cx cy (toggle px py s).2 =
        if cx % 64 = px % 64 ∧ cy % 32 = py % 32 then !pixel px py s else pixel cx cy s :=
  ⟨rfl, fun cx cy => pixel_setPixel cx cy px py _ s⟩

/-- After a clear every pixel is false (45_display.md R251). -/
theorem pixel_clearScreen (cx cy : Nat) (s : State) : pixel cx cy (clearScreen s) = false := by
  simp [pixel, clearScreen]

/-- What one set bit of a sprite does to a pixel: the toggle of 45_display.md R252. -/
theorem pixel_drawBit (cx cy px py : Nat) (s : State) :
    pixel cx cy (drawBit px py s) = if cx % 64 = px % 64 ∧ cy % 32 = py % 32 then !pixel px py s else pixel cx cy s := by
  unfold drawBit
  split <;> simp [toggle, pixel_setPixel]

/-- What one set bit of a sprite does to VF: it becomes 1 exactly when the pixel was set (45_display.md R252). -/
theorem readV_drawBit (r : Reg) (px py : Nat) (s : State) :
    readV r (drawBit px py s) = if pixel px py s = true ∧ r = vf then 1 else readV r s := by
  unfold drawBit
  by_cases h : pixel px py s = true
  · simp [toggle, h, readV_writeV, flagByte]
  · simp [toggle, h]

/-! ## Whole rows and sprites (45_display.md R252 to R254) -/

/-- A set bit of a sprite changes nothing but registers and pixels. -/
theorem drawBit_eq (px py : Nat) (s : State) : ∃ v fb, drawBit px py s = { s with v := v, fb := fb } := by
  unfold drawBit
  split <;> exact ⟨_, _, rfl⟩

/-- `drawRow` over the columns in `cols` only; `drawRow` is this for all eight. -/
theorem drawRow_frame (byte : Byte) (px py : Nat) (cols : List Nat) (s : State) :
    ∃ v fb, cols.foldl (fun t col => if byte.getLsbD (7 - col) then drawBit (px + col) py t else t) s =
      { s with v := v, fb := fb } := by
  induction cols generalizing s with
  | nil => exact ⟨_, _, rfl⟩
  | cons k ks ih =>
    simp only [List.foldl]
    split
    · obtain ⟨v, fb, h⟩ := drawBit_eq (px + k) py s
      obtain ⟨v', fb', h'⟩ := ih (drawBit (px + k) py s)
      exact ⟨v', fb', by rw [h', h]⟩
    · exact ih s

/-- A row of a sprite changes nothing but registers and pixels. -/
theorem drawRow_eq (byte : Byte) (px py : Nat) (s : State) : ∃ v fb, drawRow byte px py s = { s with v := v, fb := fb } :=
  drawRow_frame byte px py (List.range 8) s

/-- A sprite changes nothing but registers and pixels. -/
theorem drawRows_eq (rows : List Nat) (px py : Nat) (s : State) :
    ∃ v fb, drawRows rows px py s = { s with v := v, fb := fb } := by
  unfold drawRows
  induction rows generalizing s with
  | nil => exact ⟨_, _, rfl⟩
  | cons k ks ih =>
    obtain ⟨v, fb, h⟩ := drawRow_eq (readMem (indexAddr s k) s) px (py + k) s
    obtain ⟨v', fb', h'⟩ := ih (drawRow (readMem (indexAddr s k) s) px (py + k) s)
    exact ⟨v', fb', by simp only [List.foldl]; rw [h', h]⟩

/-- Pixels after some columns of a row: each of the distinct columns toggles its own pixel (45_display.md R254). -/
theorem pixel_drawCols (byte : Byte) (px py : Nat) (cols : List Nat) (hn : cols.Nodup) (h8 : ∀ k ∈ cols, k < 8)
    (s : State) (cx cy : Nat) :
    pixel cx cy (cols.foldl (fun t col => if byte.getLsbD (7 - col) then drawBit (px + col) py t else t) s) =
      (pixel cx cy s ^^
        cols.any fun k => byte.getLsbD (7 - k) && ((px + k) % 64 == cx % 64 && py % 32 == cy % 32)) := by
  induction cols generalizing s with
  | nil => simp
  | cons k ks ih =>
    rw [List.nodup_cons] at hn
    simp only [List.foldl, List.any_cons]
    rw [ih hn.2 (fun j hj => h8 j (List.mem_cons_of_mem _ hj))]
    have hk := h8 k (by simp)
    by_cases hb : byte.getLsbD (7 - k) = true
    · rw [if_pos hb, pixel_drawBit]
      by_cases hc : cx % 64 = (px + k) % 64 ∧ cy % 32 = py % 32
      · have hno : (ks.any fun k =>
            byte.getLsbD (7 - k) && ((px + k) % 64 == cx % 64 && py % 32 == cy % 32)) = false := by
          rw [List.any_eq_false]
          intro j hj
          have := h8 j (List.mem_cons_of_mem _ hj)
          have : j ≠ k := fun h => hn.1 (h ▸ hj)
          have : (px + j) % 64 ≠ cx % 64 := by omega
          simp [this]
        have hp : pixel cx cy s = pixel (px + k) py s := by simp only [pixel, hc]
        rw [hno, if_pos hc, hb, hp]
        simp [hc]
      · have hf : ((px + k) % 64 == cx % 64 && py % 32 == cy % 32) = false := by
          simp only [Bool.and_eq_false_iff, beq_eq_false_iff_ne]
          by_contra h
          push Not at h
          exact hc ⟨h.1.symm, h.2.symm⟩
        rw [if_neg hc, hf]
        simp
    · rw [if_neg hb]
      simp [hb]

/-- VF after some columns of a row: 1 when one of them met a set pixel (45_display.md R253). -/
theorem readV_drawCols (byte : Byte) (px py : Nat) (cols : List Nat) (hn : cols.Nodup) (h8 : ∀ k ∈ cols, k < 8)
    (s : State) (r : Reg) :
    readV r (cols.foldl (fun t col => if byte.getLsbD (7 - col) then drawBit (px + col) py t else t) s) =
      if (cols.any fun k => byte.getLsbD (7 - k) && pixel (px + k) py s) = true ∧ r = vf then 1 else readV r s := by
  induction cols generalizing s with
  | nil => simp
  | cons k ks ih =>
    rw [List.nodup_cons] at hn
    simp only [List.foldl, List.any_cons]
    rw [ih hn.2 (fun j hj => h8 j (List.mem_cons_of_mem _ hj))]
    have hk := h8 k (by simp)
    by_cases hb : byte.getLsbD (7 - k) = true
    · rw [if_pos hb]
      have hsame : (ks.any fun j => byte.getLsbD (7 - j) && pixel (px + j) py (drawBit (px + k) py s)) =
          (ks.any fun j => byte.getLsbD (7 - j) && pixel (px + j) py s) := by
        rw [Bool.eq_iff_iff, List.any_eq_true, List.any_eq_true]
        constructor <;> rintro ⟨j, hj, h⟩ <;> refine ⟨j, hj, ?_⟩
        all_goals (
          have := h8 j (List.mem_cons_of_mem _ hj)
          have : j ≠ k := fun h => hn.1 (h ▸ hj)
          have hne : ¬((px + j) % 64 = (px + k) % 64 ∧ py % 32 = py % 32) := by omega
          rw [pixel_drawBit, if_neg hne] at *
          exact h)
      rw [hsame, readV_drawBit]
      simp only [hb, Bool.true_and]
      by_cases h1 : (ks.any fun j => byte.getLsbD (7 - j) && pixel (px + j) py s) = true <;>
        by_cases h2 : pixel (px + k) py s = true <;> by_cases h3 : r = vf <;> simp [h1, h2, h3]
    · rw [if_neg hb]
      simp [hb]

/-- Drawing a row does not change what the sprite's other rows are read as. -/
theorem readMem_drawRow (byte : Byte) (px py : Nat) (s : State) (row : Nat) :
    readMem (indexAddr (drawRow byte px py s) row) (drawRow byte px py s) = readMem (indexAddr s row) s := by
  obtain ⟨v, fb, h⟩ := drawRow_eq byte px py s
  rw [h]
  rfl

/-- Pixels after a sprite: `FB XOR S` (45_display.md R253, R254). -/
theorem pixel_drawRows (rows : List Nat) (hn : rows.Nodup) (h32 : ∀ k ∈ rows, k < 32) (px py : Nat) (s : State)
    (cx cy : Nat) :
    pixel cx cy (drawRows rows px py s) =
      (pixel cx cy s ^^ rows.any fun row => (List.range 8).any fun k =>
        (readMem (indexAddr s row) s).getLsbD (7 - k) && ((px + k) % 64 == cx % 64 && (py + row) % 32 == cy % 32)) := by
  unfold drawRows
  induction rows generalizing s with
  | nil => simp
  | cons q qs ih =>
    rw [List.nodup_cons] at hn
    simp only [List.foldl, List.any_cons]
    rw [ih hn.2 (fun j hj => h32 j (List.mem_cons_of_mem _ hj))]
    simp only [readMem_drawRow]
    rw [drawRow, pixel_drawCols _ _ _ _ List.nodup_range (by simp)]
    have hq := h32 q (by simp)
    by_cases hc : (py + q) % 32 = cy % 32
    · have hno : (qs.any fun row => (List.range 8).any fun k => (readMem (indexAddr s row) s).getLsbD (7 - k) &&
          ((px + k) % 64 == cx % 64 && (py + row) % 32 == cy % 32)) = false := by
        rw [List.any_eq_false]
        intro j hj
        have := h32 j (List.mem_cons_of_mem _ hj)
        have : j ≠ q := fun h => hn.1 (h ▸ hj)
        have : (py + j) % 32 ≠ cy % 32 := by omega
        simp [this]
      rw [hno]
      simp
    · have hno : ((List.range 8).any fun k => (readMem (indexAddr s q) s).getLsbD (7 - k) &&
          ((px + k) % 64 == cx % 64 && (py + q) % 32 == cy % 32)) = false := by simp [hc]
      rw [hno]
      simp

/-- VF after a sprite: 1 when a one bit of it met a set pixel (45_display.md R253). -/
theorem readV_drawRows (rows : List Nat) (hn : rows.Nodup) (h32 : ∀ k ∈ rows, k < 32) (px py : Nat) (s : State)
    (r : Reg) :
    readV r (drawRows rows px py s) =
      if (rows.any fun row => (List.range 8).any fun k =>
        (readMem (indexAddr s row) s).getLsbD (7 - k) && pixel (px + k) (py + row) s) = true ∧ r = vf
      then 1 else readV r s := by
  unfold drawRows
  induction rows generalizing s with
  | nil => simp
  | cons q qs ih =>
    rw [List.nodup_cons] at hn
    simp only [List.foldl, List.any_cons]
    rw [ih hn.2 (fun j hj => h32 j (List.mem_cons_of_mem _ hj))]
    simp only [readMem_drawRow]
    have hq := h32 q (by simp)
    have hpix : ∀ row ∈ qs, ∀ k, pixel (px + k) (py + row) (drawRow (readMem (indexAddr s q) s) px (py + q) s) =
        pixel (px + k) (py + row) s := by
      intro row hrow k
      rw [drawRow, pixel_drawCols _ _ _ _ List.nodup_range (by simp)]
      have := h32 row (List.mem_cons_of_mem _ hrow)
      have : row ≠ q := fun h => hn.1 (h ▸ hrow)
      have hne : (py + q) % 32 ≠ (py + row) % 32 := by omega
      have hz : ((py + q) % 32 == (py + row) % 32) = false := beq_eq_false_iff_ne.mpr hne
      rw [List.any_eq_false.mpr fun j _ => by rw [hz, Bool.and_false, Bool.and_false]; exact Bool.false_ne_true,
        Bool.xor_false]
    have hsame : (qs.any fun row => (List.range 8).any fun k => (readMem (indexAddr s row) s).getLsbD (7 - k) &&
          pixel (px + k) (py + row) (drawRow (readMem (indexAddr s q) s) px (py + q) s)) =
        (qs.any fun row => (List.range 8).any fun k =>
          (readMem (indexAddr s row) s).getLsbD (7 - k) && pixel (px + k) (py + row) s) := by
      rw [Bool.eq_iff_iff, List.any_eq_true, List.any_eq_true]
      constructor <;> rintro ⟨row, hr, h⟩ <;> refine ⟨row, hr, ?_⟩ <;> simp only [hpix row hr] at * <;> exact h
    rw [hsame, drawRow, readV_drawCols _ _ _ _ List.nodup_range (by simp)]
    by_cases h1 : (qs.any fun row => (List.range 8).any fun k =>
        (readMem (indexAddr s row) s).getLsbD (7 - k) && pixel (px + k) (py + row) s) = true <;>
      by_cases h2 : ((List.range 8).any fun k =>
        (readMem (indexAddr s q) s).getLsbD (7 - k) && pixel (px + k) (py + q) s) = true <;>
      by_cases h3 : r = vf <;>
      simp only [h1, h2, h3, Bool.or_true, Bool.or_false, and_true, and_false, if_true, if_false] <;>
      simp

end Sys2Proof.Machine
end

