-- ==== Sys2Proof/Laws/Memory.lean ====
section
/-!
SUPPORT. Memory: a read after a write, and every memory operation keeps the canonical form.
-/

namespace Sys2Proof.Machine

theorem Memory.read_erase_same (m : Memory) (a : Nat) : (m.erase a).read a = Memory.unlisted := by
  induction m with
  | nil => rfl
  | cons c rest ih =>
    by_cases h : c.1 = a
    · simpa [Memory.erase, h] using ih
    · simpa [Memory.erase, Memory.read, h] using ih

theorem Memory.read_erase_other (m : Memory) {a q : Nat} (h : q ≠ a) : (m.erase a).read q = m.read q := by
  induction m with
  | nil => rfl
  | cons c rest ih =>
    by_cases hc : c.1 = a
    · have hq : c.1 ≠ q := by omega
      simpa [Memory.erase, Memory.read, hc, hq, Ne.symm h] using ih
    · by_cases hq : c.1 = q
      · have ha : q ≠ a := h
        subst hq
        simp [Memory.erase, Memory.read, hc]
      · simpa [Memory.erase, Memory.read, hc, hq] using ih

theorem Memory.read_insert (m : Memory) (a : Nat) (b : Byte) (q : Nat) (h : a ∉ m.map Prod.fst) :
    (m.insert a b).read q = if q = a then b else m.read q := by
  induction m with
  | nil => simp [Memory.insert, Memory.read, eq_comm]
  | cons c rest ih =>
    obtain ⟨k, d⟩ := c
    simp only [List.map_cons, List.mem_cons, not_or] at h
    by_cases hk : a < k
    · simp [Memory.insert, Memory.read, hk, eq_comm]
    · by_cases hq : k = q
      · subst hq
        simp [Memory.insert, Memory.read, hk, Ne.symm h.1]
      · simp [Memory.insert, Memory.read, hk, hq, ih h.2]

theorem Memory.not_mem_erase (m : Memory) (a : Nat) : a ∉ (m.erase a).map Prod.fst := by
  simp [Memory.erase]

/-- What a byte reads as after any write: the value written there, and every other byte as before (20_memory.md R77). -/
theorem Memory.read_write (m : Memory) (a : Nat) (b : Byte) (q : Nat) :
    (m.write a b).read q = if q = a then b else m.read q := by
  unfold Memory.write
  by_cases hb : b = Memory.unlisted
  · by_cases hq : q = a
    · subst hq
      simp [hb, Memory.read_erase_same]
    · simp [hb, hq, Memory.read_erase_other]
  · simp only [hb, if_false, Memory.read_insert _ _ _ _ (Memory.not_mem_erase m a)]
    by_cases hq : q = a
    · simp [hq]
    · simp [hq, Memory.read_erase_other]

theorem Memory.erase_wf {m : Memory} (h : m.wf) (a : Nat) : (m.erase a).wf :=
  ⟨h.1.filter _, fun c hc => h.2 c (List.mem_of_mem_filter hc)⟩

theorem Memory.mem_insert {m : Memory} {a : Nat} {b : Byte} {c : Host.Cell} (h : c ∈ m.insert a b) :
    c = (a, b) ∨ c ∈ m := by
  induction m with
  | nil => simpa [Memory.insert] using h
  | cons d rest ih =>
    unfold Memory.insert at h
    split at h
    · simpa using h
    · rcases List.mem_cons.mp h with rfl | h
      · simp
      · rcases ih h with h | h <;> simp [h]

theorem Memory.insert_wf {m : Memory} (h : m.wf) {a : Nat} {b : Byte} (ha : a < 4096) (hb : b ≠ Memory.unlisted)
    (hn : a ∉ m.map Prod.fst) : (m.insert a b).wf := by
  constructor
  · induction m with
    | nil => simp [Memory.insert]
    | cons d rest ih =>
      obtain ⟨k, e⟩ := d
      obtain ⟨hp, hc⟩ := h
      rw [List.pairwise_cons] at hp
      simp only [List.map_cons, List.mem_cons, not_or] at hn
      unfold Memory.insert
      split
      · rename_i hk
        refine List.pairwise_cons.mpr ⟨fun c hm => ?_, List.pairwise_cons.mpr hp⟩
        rcases List.mem_cons.mp hm with rfl | hm
        · exact hk
        · exact Nat.lt_trans hk (hp.1 c hm)
      · rename_i hk
        have hrest : Memory.wf rest := ⟨hp.2, fun c hm => hc c (List.mem_cons_of_mem _ hm)⟩
        refine List.pairwise_cons.mpr ⟨fun c hm => ?_, ih hrest hn.2⟩
        rcases Memory.mem_insert hm with rfl | hm
        · simp only
          omega
        · exact hp.1 c hm
  · intro c hm
    rcases Memory.mem_insert hm with rfl | hm
    · exact ⟨ha, hb⟩
    · exact h.2 c hm

/-- Every write inside the address space keeps the canonical form. -/
theorem Memory.write_wf {m : Memory} (h : m.wf) {a : Nat} (ha : a < 4096) (b : Byte) : (m.write a b).wf := by
  unfold Memory.write
  split
  · exact Memory.erase_wf h a
  · rename_i hb
    exact Memory.insert_wf (Memory.erase_wf h a) ha hb (Memory.not_mem_erase m a)

theorem writeMem_wf {s : State} (h : s.mem.wf) (a : Addr) (b : Byte) : (writeMem a b s).mem.wf :=
  Memory.write_wf h a.isLt b

/-- The memory after reset has the canonical form. -/
theorem reset_mem_wf : State.reset.mem.wf := by decide

/-- What `MemRead` answers after `MemWrite` (20_memory.md R77). -/
theorem readMem_writeMem (q a : Addr) (b : Byte) (s : State) :
    readMem q (writeMem a b s) = if q = a then b else readMem q s := by
  simp [readMem, writeMem, Memory.read_write, BitVec.toNat_inj]

end Sys2Proof.Machine
end

