-- ==== Sys2Proof/Laws/IndexMemory.lean ====
section
/-!
SUPPORT. Register transfers and loaders: which bytes and registers they write, and that nothing else changes.
-/

namespace Sys2Proof.Machine

/-- Offsets below 4096 give different addresses (20_memory.md R73). -/
theorem ea_inj {base : Addr} {j k : Nat} (hj : j < 4096) (hk : k < 4096) : ea base j = ea base k ↔ j = k := by
  unfold ea
  constructor
  · intro h
    have := congrArg BitVec.toNat ((BitVec.add_right_inj base).mp h)
    simp at this
    omega
  · rintro rfl
    rfl

/-- The offset of an address reached from `I` (44_index_memory.md R230). -/
theorem indexAddr_sub (s : State) {k : Nat} (hk : k < 4096) : (indexAddr s k - s.i).toNat = k := by
  rw [indexAddr, ea, BitVec.add_comm, BitVec.add_sub_cancel, BitVec.toNat_ofNat]
  omega

/-- Every address is reached from `I` at its offset (44_index_memory.md R230). -/
theorem indexAddr_offset (s : State) (a : Addr) : indexAddr s (a - s.i).toNat = a := by
  rw [indexAddr, ea, BitVec.ofNat_toNat, BitVec.setWidth_eq, BitVec.add_comm, BitVec.sub_add_cancel]

/-- Storing registers changes nothing but memory (44_index_memory.md R236). -/
theorem storeRegs_eq (ks : List Nat) (s : State) : ∃ m, storeRegs ks s = { s with mem := m } := by
  unfold storeRegs
  induction ks generalizing s with
  | nil => exact ⟨_, rfl⟩
  | cons k ks ih =>
    obtain ⟨m, hm⟩ := ih (writeMem (indexAddr s k) (readV (BitVec.ofNat 4 k) s) s)
    exact ⟨m, by simp only [List.foldl]; rw [hm]; rfl⟩

/-- Storing registers keeps the canonical form. -/
theorem storeRegs_wf (ks : List Nat) {s : State} (h : s.mem.wf) : (storeRegs ks s).mem.wf := by
  unfold storeRegs
  induction ks generalizing s with
  | nil => exact h
  | cons k ks ih => exact ih (writeMem_wf h _ _)

/-- Each stored register is read back at its address, and every other byte is as before (44_index_memory.md R236). -/
theorem storeRegs_read (ks : List Nat) (hn : ks.Nodup) (hk : ∀ k ∈ ks, k < 16) (s : State) :
    (∀ k ∈ ks, readMem (indexAddr s k) (storeRegs ks s) = readV (BitVec.ofNat 4 k) s) ∧
      ∀ a, (∀ k ∈ ks, a ≠ indexAddr s k) → readMem a (storeRegs ks s) = readMem a s := by
  unfold storeRegs
  induction ks generalizing s with
  | nil => simp
  | cons k ks ih =>
    rw [List.nodup_cons] at hn
    obtain ⟨h1, h2⟩ := ih hn.2 (fun j hj => hk j (List.mem_cons_of_mem _ hj))
      (writeMem (indexAddr s k) (readV (BitVec.ofNat 4 k) s) s)
    have hi : ∀ j, indexAddr (writeMem (indexAddr s k) (readV (BitVec.ofNat 4 k) s) s) j = indexAddr s j := fun _ => rfl
    have hkk := hk k (by simp)
    refine ⟨fun j hj => ?_, fun a ha => ?_⟩
    · simp only [List.foldl]
      rcases List.mem_cons.mp hj with rfl | hj
      · rw [h2]
        · simp [readMem_writeMem]
        · intro q hq
          have hq16 := hk q (List.mem_cons_of_mem _ hq)
          rw [hi, indexAddr, indexAddr, Ne, ea_inj (by omega) (by omega)]
          rintro rfl
          exact hn.1 hq
      · exact h1 j hj
    · simp only [List.foldl]
      rw [h2 a (fun q hq => ha q (List.mem_cons_of_mem _ hq)), readMem_writeMem, if_neg (ha k (by simp))]

/-- Loading registers changes nothing but registers (44_index_memory.md R237). -/
theorem loadRegs_eq (ks : List Nat) (s : State) : ∃ v, loadRegs ks s = { s with v := v } := by
  unfold loadRegs
  induction ks generalizing s with
  | nil => exact ⟨_, rfl⟩
  | cons k ks ih =>
    obtain ⟨v, hv⟩ := ih (writeV (BitVec.ofNat 4 k) (readMem (indexAddr s k) s) s)
    exact ⟨v, by simp only [List.foldl]; rw [hv]; rfl⟩

/-- Each loaded register holds the byte at its address, and every other register is as before (44_index_memory.md R237). -/
theorem loadRegs_read (ks : List Nat) (hk : ∀ k ∈ ks, k < 16) (s : State) (r : Reg) :
    readV r (loadRegs ks s) = if r.toNat ∈ ks then readMem (indexAddr s r.toNat) s else readV r s := by
  unfold loadRegs
  induction ks generalizing s with
  | nil => simp
  | cons k ks ih =>
    simp only [List.foldl]
    rw [ih (fun j hj => hk j (List.mem_cons_of_mem _ hj))]
    have hkk := hk k (by simp)
    have e : (r = BitVec.ofNat 4 k) ↔ r.toNat = k := by
      constructor
      · rintro rfl
        simp
        omega
      · intro h
        apply BitVec.eq_of_toNat_eq
        simp
        omega
    have hi : indexAddr (writeV (BitVec.ofNat 4 k) (readMem (indexAddr s k) s) s) = indexAddr s := rfl
    by_cases h2 : r.toNat ∈ ks
    · rw [if_pos h2, if_pos (List.mem_cons_of_mem _ h2), hi]
      rfl
    · rw [if_neg h2, readV_writeV]
      by_cases h : r.toNat = k
      · rw [if_pos (e.mpr h), if_pos (by simp [h]), h]
      · rw [if_neg (fun h' => h (e.mp h')), if_neg (by simp [h, h2])]

/-- The loaders' copy changes nothing but memory (20_memory.md R79, R81). -/
theorem writeBytes_eq (base : Addr) (bytes : List Byte) (s : State) : ∃ m, writeBytes base bytes s = { s with mem := m } := by
  induction bytes generalizing base s with
  | nil => exact ⟨_, rfl⟩
  | cons b rest ih =>
    obtain ⟨m, hm⟩ := ih (ea base 1) (writeMem base b s)
    exact ⟨m, by rw [writeBytes, hm]; rfl⟩

/-- The loaders' copy keeps the canonical form. -/
theorem writeBytes_wf (base : Addr) (bytes : List Byte) {s : State} (h : s.mem.wf) : (writeBytes base bytes s).mem.wf := by
  induction bytes generalizing base s with
  | nil => exact h
  | cons b rest ih => exact ih _ (writeMem_wf h _ _)

/-- A copy that ends inside the address space is read back byte by byte, and every other byte is as before (20_memory.md R81,
R83). -/
theorem writeBytes_read (base : Nat) (bytes : List Byte) (hb : base + bytes.length ≤ 4096) (s : State) :
    (∀ j, ∀ h : j < bytes.length,
        readMem (BitVec.ofNat 12 (base + j)) (writeBytes (BitVec.ofNat 12 base) bytes s) = bytes[j]) ∧
      ∀ a : Addr, a.toNat < base ∨ base + bytes.length ≤ a.toNat →
        readMem a (writeBytes (BitVec.ofNat 12 base) bytes s) = readMem a s := by
  induction bytes generalizing base s with
  | nil => simp [writeBytes]
  | cons b rest ih =>
    simp only [List.length_cons] at hb ⊢
    have he : ea (BitVec.ofNat 12 base) 1 = BitVec.ofNat 12 (base + 1) := by simp [ea, BitVec.ofNat_add]
    obtain ⟨h1, h2⟩ := ih (base + 1) (by omega) (writeMem (BitVec.ofNat 12 base) b s)
    rw [writeBytes, he]
    refine ⟨fun j hj => ?_, fun a ha => ?_⟩
    · cases j with
      | zero =>
        rw [h2 _ (Or.inl (by simp; omega)), readMem_writeMem]
        simp
      | succ j =>
        have := h1 j (by omega)
        rw [show base + (j + 1) = base + 1 + j by omega, this]
        simp
    · rw [h2 a (by omega), readMem_writeMem, if_neg]
      rintro rfl
      simp at ha
      omega

end Sys2Proof.Machine
end

