-- ==== Sys2Proof/Laws/Operations.lean ====
section
/-!
SUPPORT. What each shared operation can do, said once: the call stack, the fatal error, the random source, the skip.
-/

namespace Sys2Proof.Machine

/-- A push answers exactly when there is room, and then it says what the new stack is (10_state.md R39). -/
theorem push_ok {a : Addr} {s t : State} :
    push a s = .ok t ↔ s.sp < s.cfg.stackDepth ∧ s.sp < s.stack.length ∧
      t = setStack (s.stack.set s.sp a) (s.sp + 1) s := by
  unfold push
  split
  · simp only [reduceCtorEq, false_iff]
    omega
  · split
    · simp only [reduceCtorEq, false_iff]
      omega
    · rename_i h1 h2
      simp only [Except.ok.injEq]
      constructor
      · rintro rfl
        exact ⟨by omega, by omega, rfl⟩
      · rintro ⟨-, -, rfl⟩
        rfl

/-- A pop answers exactly when the stack holds an entry, and then it says which (10_state.md R39). -/
theorem pop_ok {a : Addr} {s t : State} :
    pop s = .ok (a, t) ↔ s.sp ≠ 0 ∧ s.stack[s.sp - 1]? = some a ∧ t = setStack s.stack (s.sp - 1) s := by
  unfold pop
  split
  · simp_all
  · split
    · rename_i b hb
      simp only [Except.ok.injEq, Prod.mk.injEq, hb, Option.some.injEq]
      constructor
      · rintro ⟨rfl, rfl⟩
        exact ⟨‹_›, rfl, rfl⟩
      · rintro ⟨-, rfl, rfl⟩
        exact ⟨rfl, rfl⟩
    · simp_all

/-- A push on a full stack is an overflow, whatever else holds (10_state.md R39). -/
theorem push_overflow {s : State} (a : Addr) (h : s.cfg.stackDepth ≤ s.sp) : push a s = .error .overflow := by
  simp [push, h]

/-- A pop of an empty stack is an underflow (10_state.md R39). -/
theorem pop_underflow {s : State} (h : s.sp = 0) : pop s = .error .underflow := by simp [pop, h]

/-- The random source hands out one byte and changes only what is lined up, or the count of free values (10_state.md R53). -/
theorem draw_cases (s : State) :
    (∃ b rest, s.randomBytes = b :: rest ∧ draw s = (b, setRandom rest s)) ∨
      (s.randomBytes = [] ∧ draw s = (Config.freeByte s.fresh, useFresh s)) := by
  unfold draw
  split
  · rename_i b rest h
    exact .inl ⟨b, rest, h, rfl⟩
  · rename_i h
    exact .inr ⟨h, rfl⟩

/-- A conditional skip adds 2 to `PC` or does nothing (42_skip.md R180). -/
theorem skipIf_eq (c : Bool) (s : State) : skipIf c s = setPc (if c then s.pc + 2 else s.pc) s := by
  cases c <;> rfl

end Sys2Proof.Machine
end

