-- ==== Sys2Proof/Laws/Exec.lean ====
section
/-!
SUPPORT. What one instruction can do, said once, over all instructions (spec/40_engine.md R140), and when an instruction answers.
-/

namespace Sys2Proof.Machine

/-- Every instruction that answers does one of four things: it writes program state (each part only by the instructions the spec
names, canonical memory staying canonical and the stack keeping its slots), or waits for a key, or takes one of the two stack
errors, which write nothing else. -/
theorem exec_cases {i : Instr} {s t : State} (h : exec i s = .next t) :
    (∃ v m idx pc sp stack dt st fb bytes fresh,
        t = { s with v := v, mem := m, i := idx, pc := pc, sp := sp, stack := stack, dt := dt, st := st, fb := fb,
                     randomBytes := bytes, fresh := fresh } ∧
        (m = s.mem ∨ ∃ x, i = .ldBVx x ∨ i = .ldMiVx x) ∧ (s.mem.wf → m.wf) ∧
        (idx = s.i ∨ (∃ nnn, i = .ldI nnn) ∨ ∃ x, i = .addIVx x ∨ i = .ldFVx x) ∧
        ((sp = s.sp ∧ stack = s.stack) ∨
          ((i = .ret ∨ ∃ nnn, i = .call nnn) ∧ stack.length = s.stack.length ∧
            (s.sp ≤ s.cfg.stackDepth → sp ≤ s.cfg.stackDepth))) ∧
        (dt = s.dt ∨ ∃ x, i = .ldDtVx x ∧ dt = readV x s) ∧
        (st = s.st ∨ ∃ x, i = .ldStVx x ∧ st = readV x s) ∧
        (fb = s.fb ∨ i = .cls ∨ ∃ x y n, i = .drw x y n)) ∨
      (∃ x, i = .ldVxK x ∧ t = enterWait x s) ∨
      (i = .ret ∧ s.sp = 0 ∧ t = raiseFault .stackUnderflow (ipcOf s) (encode .ret) s) ∨
      (∃ nnn, i = .call nnn ∧ s.cfg.stackDepth ≤ s.sp ∧
        t = raiseFault .stackOverflow (ipcOf s) (encode (.call nnn)) s) := by
  cases i
  case ldVxK x => cases h; exact .inr (.inl ⟨x, rfl, rfl⟩)
  case ret =>
    simp only [exec, execRet] at h
    by_cases h0 : s.sp = 0
    · rw [pop_underflow h0] at h; cases h; exact .inr (.inr (.inl ⟨rfl, h0, rfl⟩))
    · simp only [pop, h0, if_false] at h
      cases hh : s.stack[s.sp-1]? with
      | none => simp [hh, stackStop] at h
      | some a =>
        simp [hh] at h; subst h
        exact .inl ⟨_, _, _, _, _, _, _, _, _, _, _, rfl, .inl rfl, id, .inl rfl, .inr ⟨.inl rfl, rfl, by simp only [setStack]; omega⟩, .inl rfl, .inl rfl, .inl rfl⟩
  case call nnn =>
    simp only [exec, execCall, push] at h
    by_cases h0 : s.cfg.stackDepth ≤ s.sp
    · simp only [h0, if_true, stackStop] at h; cases h; exact .inr (.inr (.inr ⟨nnn, rfl, h0, rfl⟩))
    · simp only [h0, if_false] at h
      by_cases h1 : s.stack.length ≤ s.sp
      · simp [h1, stackStop] at h
      · simp [h1] at h; subst h
        exact .inl ⟨_, _, _, _, _, _, _, _, _, _, _, rfl, .inl rfl, id, .inl rfl, .inr ⟨.inr ⟨_, rfl⟩, by simp, by simp only [setStack]; omega⟩, .inl rfl, .inl rfl, .inl rfl⟩
  all_goals refine .inl ?_
  case drw x y n =>
    cases h
    obtain ⟨v, fb, h⟩ := drawRows_eq (List.range n.toNat) (readV x s).toNat (readV y s).toNat (writeV vf (flagByte false) s)
    simp only [latchA, latchB]
    rw [h]
    exact ⟨_, _, _, _, _, _, _, _, _, _, _, rfl,
      .inl rfl, id, .inl rfl, .inl ⟨rfl, rfl⟩, .inl rfl, .inl rfl, .inr (.inr ⟨_, _, _, rfl⟩)⟩
  case ldMiVx x =>
    cases h
    obtain ⟨m, h⟩ := storeRegs_eq (regRange x) s
    have := storeRegs_wf (regRange x) (s := s)
    rw [h] at this ⊢
    exact ⟨_, _, _, _, _, _, _, _, _, _, _, rfl,
      .inr ⟨_, .inr rfl⟩, this, .inl rfl, .inl ⟨rfl, rfl⟩, .inl rfl, .inl rfl, .inl rfl⟩
  case ldVxMi x =>
    cases h
    obtain ⟨m, h⟩ := loadRegs_eq (regRange x) s
    rw [h]
    exact ⟨_, _, _, _, _, _, _, _, _, _, _, rfl, .inl rfl, id, .inl rfl, .inl ⟨rfl, rfl⟩, .inl rfl, .inl rfl, .inl rfl⟩
  case ldBVx x =>
    cases h
    exact ⟨_, _, _, _, _, _, _, _, _, _, _, rfl,
      .inr ⟨_, .inl rfl⟩, fun h => writeMem_wf (writeMem_wf (writeMem_wf h _ _) _ _) _ _, .inl rfl, .inl ⟨rfl, rfl⟩, .inl rfl, .inl rfl, .inl rfl⟩
  case rnd x nn =>
    cases h
    rcases draw_cases s with ⟨b, rest, -, e⟩ | ⟨-, e⟩ <;> rw [e] <;>
    exact ⟨_, _, _, _, _, _, _, _, _, _, _, rfl, .inl rfl, id, .inl rfl, .inl ⟨rfl, rfl⟩, .inl rfl, .inl rfl, .inl rfl⟩
  case cls =>
    cases h
    exact ⟨_, _, _, _, _, _, _, _, _, _, _, rfl,
      .inl rfl, id, .inl rfl, .inl ⟨rfl, rfl⟩, .inl rfl, .inl rfl, .inr (.inl rfl)⟩
  case ldI =>
    cases h
    exact ⟨_, _, _, _, _, _, _, _, _, _, _, rfl,
      .inl rfl, id, .inr (.inl ⟨_, rfl⟩), .inl ⟨rfl, rfl⟩, .inl rfl, .inl rfl, .inl rfl⟩
  case addIVx =>
    cases h
    exact ⟨_, _, _, _, _, _, _, _, _, _, _, rfl,
      .inl rfl, id, .inr (.inr ⟨_, .inl rfl⟩), .inl ⟨rfl, rfl⟩, .inl rfl, .inl rfl, .inl rfl⟩
  case ldFVx =>
    cases h
    exact ⟨_, _, _, _, _, _, _, _, _, _, _, rfl,
      .inl rfl, id, .inr (.inr ⟨_, .inr rfl⟩), .inl ⟨rfl, rfl⟩, .inl rfl, .inl rfl, .inl rfl⟩
  case ldDtVx =>
    cases h
    exact ⟨_, _, _, _, _, _, _, _, _, _, _, rfl,
      .inl rfl, id, .inl rfl, .inl ⟨rfl, rfl⟩, .inr ⟨_, rfl, rfl⟩, .inl rfl, .inl rfl⟩
  case ldStVx =>
    cases h
    exact ⟨_, _, _, _, _, _, _, _, _, _, _, rfl,
      .inl rfl, id, .inl rfl, .inl ⟨rfl, rfl⟩, .inl rfl, .inr ⟨_, rfl, rfl⟩, .inl rfl⟩
  all_goals (
    simp only [exec, execSeVxNn, execSneVxNn, execSeVxVy, execSneVxVy, execSkp, execSknp, skipIf_eq] at h
    cases h
    exact ⟨_, _, _, _, _, _, _, _, _, _, _, rfl, .inl rfl, id, .inl rfl, .inl ⟨rfl, rfl⟩, .inl rfl, .inl rfl, .inl rfl⟩)

/-- With the stack's slots all there, every instruction answers a next state (10_state.md R38). -/
theorem exec_answers (i : Instr) {s : State} (h : s.stack.length = s.cfg.stackDepth) (h2 : s.sp ≤ s.cfg.stackDepth) :
    ∃ t, exec i s = .next t := by
  cases i
  case ret =>
    simp only [exec, execRet, pop]
    by_cases h0 : s.sp = 0
    · simp [h0, stackStop]
    · have : s.sp - 1 < s.stack.length := by omega
      simp [h0, List.getElem?_eq_getElem this]
  case call nnn =>
    simp only [exec, execCall, push]
    by_cases h0 : s.cfg.stackDepth ≤ s.sp
    · simp [h0, stackStop]
    · have : ¬ s.stack.length ≤ s.sp := by omega
      simp [h0, this]
  all_goals exact ⟨_, rfl⟩

end Sys2Proof.Machine
end

