-- ==== Sys2Proof/Laws/PerInstr.lean ====
section
/-!
SUPPORT. Statements made per instruction. `RowMatch`: the word `encode` writes selects the instruction's own row of the dispatch
table (spec/30_encoding.md R106, R110).
-/

namespace Sys2Proof.Laws

/-- The fixed bits of an instruction's word are those of its row, whatever its operands. -/
def RowMatch.Statement (i : Instr) : Prop := (rowOf i).selects (encode i)

/-- Format ADDR fixes the family. -/
theorem fmtAddr_row (f : BitVec 4) (nnn : Addr) : fmtAddr f nnn &&& 0xF000 = fmtAddr f 0 := by
  apply BitVec.eq_of_getLsbD_eq
  intro k hk
  rw [fmtAddr, fmtAddr, BitVec.getLsbD_and]
  simp only [BitVec.getLsbD_append]
  interval_cases k <;> simp

/-- Format XNN fixes the family. -/
theorem fmtXnn_row (f : BitVec 4) (x : Reg) (nn : Byte) : fmtXnn f x nn &&& 0xF000 = fmtXnn f 0 0 := by
  apply BitVec.eq_of_getLsbD_eq
  intro k hk
  rw [fmtXnn, fmtXnn, BitVec.getLsbD_and]
  simp only [BitVec.getLsbD_append]
  interval_cases k <;> simp

/-- Format XY fixes the family and the sub-operation. -/
theorem fmtXyn_row (f : BitVec 4) (x y : Reg) (n : BitVec 4) : fmtXyn f x y n &&& 0xF00F = fmtXyn f 0 0 n := by
  apply BitVec.eq_of_getLsbD_eq
  intro k hk
  rw [fmtXyn, fmtXyn, BitVec.getLsbD_and]
  simp only [BitVec.getLsbD_append]
  interval_cases k <;> simp

/-- Format XYN fixes the family. -/
theorem fmtXyn_family_row (f : BitVec 4) (x y : Reg) (n : BitVec 4) : fmtXyn f x y n &&& 0xF000 = fmtXyn f 0 0 0 := by
  apply BitVec.eq_of_getLsbD_eq
  intro k hk
  rw [fmtXyn, fmtXyn, BitVec.getLsbD_and]
  simp only [BitVec.getLsbD_append]
  interval_cases k <;> simp

/-- Format X fixes the family and the sub-operation. -/
theorem fmtX_row (f : BitVec 4) (x : Reg) (sub : Byte) : fmtX f x sub &&& 0xF0FF = fmtX f 0 sub := by
  apply BitVec.eq_of_getLsbD_eq
  intro k hk
  rw [fmtX, fmtX, BitVec.getLsbD_and]
  simp only [BitVec.getLsbD_append]
  interval_cases k <;> simp

theorem RowMatch.cls : RowMatch.Statement .cls := rfl
theorem RowMatch.ret : RowMatch.Statement .ret := rfl
theorem RowMatch.jp (nnn : Addr) : RowMatch.Statement (.jp nnn) := fmtAddr_row _ _
theorem RowMatch.call (nnn : Addr) : RowMatch.Statement (.call nnn) := fmtAddr_row _ _
theorem RowMatch.seVxNn (x : Reg) (nn : Byte) : RowMatch.Statement (.seVxNn x nn) := fmtXnn_row _ _ _
theorem RowMatch.sneVxNn (x : Reg) (nn : Byte) : RowMatch.Statement (.sneVxNn x nn) := fmtXnn_row _ _ _
theorem RowMatch.seVxVy (x : Reg) (y : Reg) : RowMatch.Statement (.seVxVy x y) := fmtXyn_row _ _ _ _
theorem RowMatch.ldVxNn (x : Reg) (nn : Byte) : RowMatch.Statement (.ldVxNn x nn) := fmtXnn_row _ _ _
theorem RowMatch.addVxNn (x : Reg) (nn : Byte) : RowMatch.Statement (.addVxNn x nn) := fmtXnn_row _ _ _
theorem RowMatch.ldVxVy (x : Reg) (y : Reg) : RowMatch.Statement (.ldVxVy x y) := fmtXyn_row _ _ _ _
theorem RowMatch.or (x : Reg) (y : Reg) : RowMatch.Statement (.or x y) := fmtXyn_row _ _ _ _
theorem RowMatch.and (x : Reg) (y : Reg) : RowMatch.Statement (.and x y) := fmtXyn_row _ _ _ _
theorem RowMatch.xor (x : Reg) (y : Reg) : RowMatch.Statement (.xor x y) := fmtXyn_row _ _ _ _
theorem RowMatch.addVxVy (x : Reg) (y : Reg) : RowMatch.Statement (.addVxVy x y) := fmtXyn_row _ _ _ _
theorem RowMatch.sub (x : Reg) (y : Reg) : RowMatch.Statement (.sub x y) := fmtXyn_row _ _ _ _
theorem RowMatch.shr (x : Reg) (y : Reg) : RowMatch.Statement (.shr x y) := fmtXyn_row _ _ _ _
theorem RowMatch.subn (x : Reg) (y : Reg) : RowMatch.Statement (.subn x y) := fmtXyn_row _ _ _ _
theorem RowMatch.shl (x : Reg) (y : Reg) : RowMatch.Statement (.shl x y) := fmtXyn_row _ _ _ _
theorem RowMatch.sneVxVy (x : Reg) (y : Reg) : RowMatch.Statement (.sneVxVy x y) := fmtXyn_row _ _ _ _
theorem RowMatch.ldI (nnn : Addr) : RowMatch.Statement (.ldI nnn) := fmtAddr_row _ _
theorem RowMatch.jpV0 (nnn : Addr) : RowMatch.Statement (.jpV0 nnn) := fmtAddr_row _ _
theorem RowMatch.rnd (x : Reg) (nn : Byte) : RowMatch.Statement (.rnd x nn) := fmtXnn_row _ _ _
theorem RowMatch.drw (x : Reg) (y : Reg) (n : BitVec 4) : RowMatch.Statement (.drw x y n) := fmtXyn_family_row _ _ _ _
theorem RowMatch.skp (x : Reg) : RowMatch.Statement (.skp x) := fmtX_row _ _ _
theorem RowMatch.sknp (x : Reg) : RowMatch.Statement (.sknp x) := fmtX_row _ _ _
theorem RowMatch.ldVxDt (x : Reg) : RowMatch.Statement (.ldVxDt x) := fmtX_row _ _ _
theorem RowMatch.ldVxK (x : Reg) : RowMatch.Statement (.ldVxK x) := fmtX_row _ _ _
theorem RowMatch.ldDtVx (x : Reg) : RowMatch.Statement (.ldDtVx x) := fmtX_row _ _ _
theorem RowMatch.ldStVx (x : Reg) : RowMatch.Statement (.ldStVx x) := fmtX_row _ _ _
theorem RowMatch.addIVx (x : Reg) : RowMatch.Statement (.addIVx x) := fmtX_row _ _ _
theorem RowMatch.ldFVx (x : Reg) : RowMatch.Statement (.ldFVx x) := fmtX_row _ _ _
theorem RowMatch.ldBVx (x : Reg) : RowMatch.Statement (.ldBVx x) := fmtX_row _ _ _
theorem RowMatch.ldMiVx (x : Reg) : RowMatch.Statement (.ldMiVx x) := fmtX_row _ _ _
theorem RowMatch.ldVxMi (x : Reg) : RowMatch.Statement (.ldVxMi x) := fmtX_row _ _ _

end Sys2Proof.Laws
end

