-- ==== Sys2Proof/Laws/Step.lean ====
section
/-!
SUPPORT. What one step can do, said once: a host call, an instruction of a batch, or the end of a call (spec/40_engine.md R141).
-/

namespace Sys2Proof.Machine

theorem batchGoesOn_iff (n : Nat) (s : State) : batchGoesOn n s = true ↔ s.run = .running ∧ n < s.cfg.speed := by
  simp [batchGoesOn]

/-- Every step that answers is one of these three. -/
theorem step_cases {s t : State} (h : step s = .next t) :
    (s.phase = .idle ∧ hostCall (nextCall s).1 (nextCall s).2 = .next t) ∨
      (∃ n u, s.phase = .inCall n ∧ s.run = .running ∧ n < s.cfg.speed ∧ runInstr s = .next u ∧ t = endInstr n u) ∨
      (∃ n, s.phase = .inCall n ∧ ¬(s.run = .running ∧ n < s.cfg.speed) ∧ t = finishCycle s) := by
  unfold step at h
  split at h
  · exact .inl ⟨‹_›, h⟩
  · rename_i n hn
    unfold callStep at h
    split at h
    · rename_i hb
      rw [batchGoesOn_iff] at hb
      unfold instrStep at h
      split at h
      · rename_i u hu
        cases h
        exact .inr (.inl ⟨n, u, hn, hb.1, hb.2, hu, rfl⟩)
      · cases h
      · cases h
    · rename_i hb
      cases h
      exact .inr (.inr ⟨n, hn, fun hc => hb ((batchGoesOn_iff n s).mpr hc), rfl⟩)

/-- An instruction of a batch either decodes and executes, or takes `UnknownOpcode` (40_engine.md R135, R138). -/
theorem runInstr_cases {s t : State} (h : runInstr s = .next t) :
    (∃ i, decode (fetchWord s) = .ok i ∧ exec i (advancePc s) = .next t) ∨
      (∃ e, decode (fetchWord s) = .error e ∧ t = raiseFault .unknownOpcode s.pc (fetchWord s) (advancePc s)) := by
  unfold runInstr at h
  split at h
  · exact .inl ⟨_, ‹_›, h⟩
  · cases h
    exact .inr ⟨_, ‹_›, rfl⟩

/-- What a host call that answers does (10_state.md R49). -/
theorem hostCall_cases {c : HostCall} {s t : State} (h : hostCall c s = .next t) :
    (∃ speed, c = .reset speed ∧ t = restart speed s) ∨
      (c = .loadFont ∧ s.started = false ∧ t = loadFont s) ∨
      (∃ bytes, c = .loadProgram bytes ∧ s.started = false ∧ t = loadProgram bytes s) ∨
      (∃ keys edges, c = .cycle keys edges ∧ t = beginCycle keys edges s) := by
  cases c with
  | reset speed =>
    cases h
    exact .inl ⟨speed, rfl, rfl⟩
  | loadFont =>
    simp only [hostCall] at h
    split at h
    · cases h
    · cases h
      exact .inr (.inl ⟨rfl, eq_false_of_ne_true ‹_›, rfl⟩)
  | loadProgram bytes =>
    simp only [hostCall] at h
    split at h
    · cases h
    · cases h
      exact .inr (.inr (.inl ⟨bytes, rfl, eq_false_of_ne_true ‹_›, rfl⟩))
  | cycle keys edges =>
    cases h
    exact .inr (.inr (.inr ⟨keys, edges, rfl, rfl⟩))

/-- The start of a call: nothing when halted, otherwise the call is entered, the wait resolved first if there is one
(40_engine.md R130, R132). -/
theorem beginCycle_cases (keys edges : BitVec 16) (s : State) :
    (s.run = .halted ∧ beginCycle keys edges s = s) ∨
      (s.run = .running ∧ beginCycle keys edges s = enterCycle keys s) ∨
      (s.run = .waitingForKey ∧ beginCycle keys edges s = resolveWait edges (enterCycle keys s)) := by
  unfold beginCycle
  cases h : s.run <;> simp

/-- The wait resolves on the lowest newly pressed key, and otherwise nothing happens (46_keys_timers.md R274). -/
theorem resolveWait_cases (edges : BitVec 16) (s : State) :
    (leastKey edges = none ∧ resolveWait edges s = s) ∨
      (∃ k, leastKey edges = some k ∧
        resolveWait edges s = setRun .running (writeV s.waitX (BitVec.ofNat 8 k) s)) := by
  unfold resolveWait
  split
  · exact .inr ⟨_, ‹_›, rfl⟩
  · exact .inl ⟨‹_›, rfl⟩

/-- The least key is a key with its bit set, and no lower key has one. -/
theorem leastKey_some {edges : BitVec 16} {k : Nat} (h : leastKey edges = some k) :
    k < 16 ∧ edges.getLsbD k = true ∧ ∀ j < k, edges.getLsbD j = false := by
  obtain ⟨hk, -, h1, h2⟩ := List.find?_range_eq_some.mp h |> fun ⟨a, b, c⟩ => (⟨b, trivial, a, c⟩ : _ ∧ True ∧ _ ∧ _)
  simp_all

/-- Taking the host's next call changes only what is lined up and the count of free values (log entry 2). -/
theorem nextCall_eq (s : State) : ∃ calls fresh, (nextCall s).2 = { s with hostCalls := calls, fresh := fresh } := by
  unfold nextCall
  split <;> exact ⟨_, _, rfl⟩

/-- Between transactions a step is the host's first lined-up call, on the state without it. -/
theorem step_lined_up {c : HostCall} {rest : List HostCall} {s : State} (h : s.phase = .idle) (hc : s.hostCalls = c :: rest) :
    step s = hostCall c { s with hostCalls := rest } := by
  unfold step
  split
  · simp only [idleStep, nextCall, hc]
    rfl
  · rename_i hh
    rw [h] at hh
    cases hh

/-- A program load writes memory, keeping its canonical form, or fails (20_memory.md R81, R82). -/
theorem loadProgram_cases (bytes : List Byte) (s : State) :
    (∃ m, loadProgram bytes s = { s with mem := m } ∧ (s.mem.wf → m.wf)) ∨ loadProgram bytes s = failLoad s := by
  unfold loadProgram
  split
  · exact .inr rfl
  · obtain ⟨m, h⟩ := writeBytes_eq (BitVec.ofNat 12 Config.progBase) bytes s
    refine .inl ⟨m, h, fun hw => ?_⟩
    have := writeBytes_wf (BitVec.ofNat 12 Config.progBase) bytes hw
    rw [h] at this
    exact this

/-- A font load writes memory, keeping its canonical form (20_memory.md R79). -/
theorem loadFont_eq (s : State) : ∃ m, loadFont s = { s with mem := m } ∧ (s.mem.wf → m.wf) := by
  unfold loadFont
  obtain ⟨m, h⟩ := writeBytes_eq 0x000 s.cfg.fontRom.toList s
  refine ⟨m, h, fun hw => ?_⟩
  have := writeBytes_wf 0x000 s.cfg.fontRom.toList hw
  rw [h] at this
  exact this

/-- A timer one tick later (60_exceptions.md R320). -/
theorem tickDown_toNat (b : Byte) : (tickDown b).toNat = b.toNat - 1 := by
  revert b
  decide

/-- The sound gate is on exactly when `ST` is positive (60_exceptions.md R321). -/
theorem gate_eq (b : Byte) : (b != 0) = decide (0 < b.toNat) := by
  revert b
  decide

/-- A run goes on from the state its first step gives. -/
theorem run_next {k : Nat} {s t : State} (h : step s = .next t) : core.run (k + 1) s = core.run k t := by
  simp only [Host.Core.run]
  rw [show core.step s = .next t from h]

end Sys2Proof.Machine
end

