-- ==== Sys2Proof/Tests/Slice0.lean ====
section
/-!
SUPPORT. Named tests: each row's word decodes to its instruction; single steps with the results of the spec's own vectors
(spec/95_test_vectors.md part B, computed there by hand, and the examples of the rules); what well-formedness refuses; and for
each statement with hypotheses a concrete state and operands that meet them.
-/

namespace Sys2Proof.Tests

open Sys2Proof Sys2Proof.Machine

/-! ## Decoding: words written out from the formats of 30_encoding.md R103 and the patterns of R110 -/

theorem test_decode_cls : decode 0b0000000011100000#16 = .ok (.cls) := by decide
theorem test_decode_ret : decode 0b0000000011101110#16 = .ok (.ret) := by decide
theorem test_decode_jp : decode 0b0001101010111100#16 = .ok (.jp 0xABC) := by decide
theorem test_decode_call : decode 0b0010001100000001#16 = .ok (.call 0x301) := by decide
theorem test_decode_seVxNn : decode 0b0011010101000010#16 = .ok (.seVxNn 5 0x42) := by decide
theorem test_decode_sneVxNn : decode 0b0100011010100011#16 = .ok (.sneVxNn 6 0xA3) := by decide
theorem test_decode_seVxVy : decode 0b0101000100100000#16 = .ok (.seVxVy 1 2) := by decide
theorem test_decode_ldVxNn : decode 0b0110101000111100#16 = .ok (.ldVxNn 0xA 0x3C) := by decide
theorem test_decode_addVxNn : decode 0b0111101110000001#16 = .ok (.addVxNn 0xB 0x81) := by decide
theorem test_decode_ldVxVy : decode 0b1000001101000000#16 = .ok (.ldVxVy 3 4) := by decide
theorem test_decode_or : decode 0b1000010101100001#16 = .ok (.or 5 6) := by decide
theorem test_decode_and : decode 0b1000011110000010#16 = .ok (.and 7 8) := by decide
theorem test_decode_xor : decode 0b1000100110100011#16 = .ok (.xor 9 0xA) := by decide
theorem test_decode_addVxVy : decode 0b1000101111000100#16 = .ok (.addVxVy 0xB 0xC) := by decide
theorem test_decode_sub : decode 0b1000110111100101#16 = .ok (.sub 0xD 0xE) := by decide
theorem test_decode_shr : decode 0b1000000111110110#16 = .ok (.shr 1 0xF) := by decide
theorem test_decode_subn : decode 0b1000001000110111#16 = .ok (.subn 2 3) := by decide
theorem test_decode_shl : decode 0b1000010001011110#16 = .ok (.shl 4 5) := by decide
theorem test_decode_sneVxVy : decode 0b1001011001110000#16 = .ok (.sneVxVy 6 7) := by decide
theorem test_decode_ldI : decode 0b1010001101000101#16 = .ok (.ldI 0x345) := by decide
theorem test_decode_jpV0 : decode 0b1011111100010010#16 = .ok (.jpV0 0xF12) := by decide
theorem test_decode_rnd : decode 0b1100001100001111#16 = .ok (.rnd 3 0x0F) := by decide
theorem test_decode_drw : decode 0b1101000100101110#16 = .ok (.drw 1 2 0xE) := by decide
theorem test_decode_skp : decode 0b1110010010011110#16 = .ok (.skp 4) := by decide
theorem test_decode_sknp : decode 0b1110010110100001#16 = .ok (.sknp 5) := by decide
theorem test_decode_ldVxDt : decode 0b1111001100000111#16 = .ok (.ldVxDt 3) := by decide
theorem test_decode_ldVxK : decode 0b1111101100001010#16 = .ok (.ldVxK 0xB) := by decide
theorem test_decode_ldDtVx : decode 0b1111011000010101#16 = .ok (.ldDtVx 6) := by decide
theorem test_decode_ldStVx : decode 0b1111011100011000#16 = .ok (.ldStVx 7) := by decide
theorem test_decode_addIVx : decode 0b1111100000011110#16 = .ok (.addIVx 8) := by decide
theorem test_decode_ldFVx : decode 0b1111100100101001#16 = .ok (.ldFVx 9) := by decide
theorem test_decode_ldBVx : decode 0b1111001000110011#16 = .ok (.ldBVx 2) := by decide
theorem test_decode_ldMiVx : decode 0b1111110001010101#16 = .ok (.ldMiVx 0xC) := by decide
theorem test_decode_ldVxMi : decode 0b1111110101100101#16 = .ok (.ldVxMi 0xD) := by decide

/-- The words of vector B1.5 and both zero words match no row (30_encoding.md R107, R108). -/
theorem test_decode_unknown :
    [0x0000#16, 0x0123#16, 0x00E1#16, 0x5121#16, 0x8008#16, 0x800F#16, 0x9121#16, 0xE000#16, 0xE09F#16, 0xF000#16,
      0xF0FF#16].all (fun op => decide (decode op = .error .unknownOpcode)) = true := by decide

/-- The table's bit 0 is the word's bit 0; a row wider than a word is none (log entry 15). -/
theorem test_table_word : decodeTableWord 16 0x8F14 = some (.addVxVy 0xF 1) ∧ decodeTableWord 32 0x8F14 = none := by decide

/-- A list of one byte holds no instruction; what follows the two bytes is left over (30_encoding.md R100). -/
theorem test_decode_bytes :
    decodeBytes [0x60] = .error .truncated ∧ decodeBytes [0x60, 0x05, 0x70] = .ok (.ldVxNn 0 0x05, [0x70]) := by decide

/-! ## Well-formedness

`Instr.wf` has no check that could refuse a term: each operand's type has exactly the width of its field, and every value of a
field is legal. The one check of the model is on the parameters (00_scope.md R9, 10_state.md R38). -/

theorem test_wf_instr : (Instr.drw 0xF 0xF 0xF).wf = true := by decide
theorem test_wf_params_default : Config.defaultParams.wf = true := by decide
theorem test_wf_params_refused : Params.wf { Config.defaultParams with stackDepth := 15 } = false := by decide

/-! ## Single steps: spec/95_test_vectors.md part B -/

/-- `State.reset` with some registers set. -/
def withRegs (regs : List (Reg × Byte)) : State := regs.foldl (fun s p => writeV p.1 p.2 s) State.reset

/-- Some bytes stored from an address on. -/
def withBytes (a : Addr) (bytes : List Byte) (s : State) : State := writeBytes a bytes s

/-- What `f` reads after one step that fetches and runs the word `w` from `s`. -/
def after {α : Type} (w : Nat) (s : State) (f : State → α) : Option α := (stateOf (step (s.withFetchWord 16 w))).map f

/-- B1.2: the second byte of a word at 0xFFF comes from 0x000. -/
theorem test_fetch_wraps :
    after 0x6042 { State.reset with pc := 0xFFF } (fun t => (readV 0 t, t.pc)) = some (0x42, 0x001) := by decide
/-- B1.3: an odd address is an address. -/
theorem test_fetch_odd :
    after 0x6107 { State.reset with pc := 0x201 } (fun t => (readV 1 t, t.pc)) = some (0x07, 0x203) := by decide
/-- B1.4. -/
theorem test_unknown_word :
    after 0x0000 State.reset (fun t => (t.faultCode.code, t.faultPc, t.faultOp, t.pc, t.run.code)) =
      some (1, 0x200, 0x0000, 0x202, 2) := by decide
/-- B2.1. -/
theorem test_jp :
    after 0x1ABC State.reset (·.pc) = some 0xABC := by decide
/-- B2.2. -/
theorem test_call :
    after 0x2300 State.reset (fun t => (t.stack[0]?, t.sp, t.pc)) = some (some 0x202, 1, 0x300) := by decide
/-- B2.5: the stack is full. -/
theorem test_call_full :
    after 0x2300 { State.reset with sp := 16 } (fun t => (t.faultCode.code, t.faultPc, t.faultOp, t.pc, t.sp)) =
      some (2, 0x200, 0x2300, 0x202, 16) := by decide
/-- B2.3. -/
theorem test_ret :
    after 0x00EE { State.reset with pc := 0x300, sp := 1, stack := State.reset.stack.set 0 0x202 }
        (fun t => (t.sp, t.pc)) = some (0, 0x202) := by decide
/-- B2.4. -/
theorem test_ret_empty :
    after 0x00EE State.reset (fun t => (t.faultCode.code, t.faultPc, t.faultOp, t.pc, t.sp)) =
      some (3, 0x200, 0x00EE, 0x202, 0) := by decide
/-- B2.8: the sum wraps. -/
theorem test_jpV0 :
    after 0xBFFF (withRegs [(0, 0xFF)]) (·.pc) = some 0x0FE := by decide
/-- B2.9, B2.10. -/
theorem test_seVxNn :
    after 0x3342 (withRegs [(3, 0x42)]) (·.pc) = some 0x204 ∧ after 0x3343 (withRegs [(3, 0x42)]) (·.pc) = some 0x202 := by decide
/-- B2.17: a skip at 0xFFE. -/
theorem test_seVxNn_wraps :
    after 0x3000 { State.reset with pc := 0xFFE } (·.pc) = some 0x002 := by decide
/-- B2.11, B2.12. -/
theorem test_sneVxNn :
    after 0x4343 (withRegs [(3, 0x42)]) (·.pc) = some 0x204 ∧ after 0x4342 (withRegs [(3, 0x42)]) (·.pc) = some 0x202 := by decide
/-- B2.13, B2.14. -/
theorem test_seVxVy :
    after 0x5120 (withRegs [(1, 7), (2, 7)]) (·.pc) = some 0x204 ∧
      after 0x5120 (withRegs [(1, 7), (2, 8)]) (·.pc) = some 0x202 := by decide
/-- B2.15, B2.16. -/
theorem test_sneVxVy :
    after 0x9120 (withRegs [(1, 7), (2, 8)]) (·.pc) = some 0x204 ∧
      after 0x9120 (withRegs [(1, 7), (2, 7)]) (·.pc) = some 0x202 := by decide
/-- B3.30. -/
theorem test_ldVxNn :
    after 0x6A3C State.reset (readV 0xA) = some 0x3C := by decide
/-- B3.25: no carry. -/
theorem test_addVxNn :
    after 0x70FF (withRegs [(0, 0x01), (0xF, 0x33)]) (fun t => (readV 0 t, readV 0xF t)) = some (0x00, 0x33) := by decide
/-- B3.26. -/
theorem test_ldVxVy :
    after 0x8120 (withRegs [(2, 0x99)]) (fun t => (readV 1 t, readV 2 t)) = some (0x99, 0x99) := by decide
/-- B3.21: VF is kept. -/
theorem test_or :
    after 0x8011 (withRegs [(0, 0xF0), (1, 0x0F), (0xF, 0x55)]) (fun t => (readV 0 t, readV 0xF t)) = some (0xFF, 0x55) := by decide
/-- B3.22. -/
theorem test_and :
    after 0x8012 (withRegs [(0, 0xF0), (1, 0x3C)]) (readV 0) = some 0x30 := by decide
/-- 43_alu.md R196, example. -/
theorem test_xor :
    after 0x8013 (withRegs [(0, 0xF0), (1, 0x3C)]) (readV 0) = some 0xCC := by decide
/-- B3.1, B3.2. -/
theorem test_addVxVy :
    after 0x8124 (withRegs [(1, 0xFF), (2, 0x01)]) (fun t => (readV 1 t, readV 0xF t)) = some (0x00, 1) ∧
      after 0x8124 (withRegs [(1, 0x7F), (2, 0x80)]) (fun t => (readV 1 t, readV 0xF t)) = some (0xFF, 0) := by decide
/-- B3.4, B3.5: VF as destination and as source. -/
theorem test_addVxVy_vf :
    after 0x8F14 (withRegs [(0xF, 0x20), (1, 0xF0)]) (readV 0xF) = some 0x10 ∧
      after 0x81F4 (withRegs [(1, 0x05), (0xF, 0x03)]) (fun t => (readV 1 t, readV 0xF t)) = some (0x08, 0) := by decide
/-- B3.7, B3.8. -/
theorem test_sub :
    after 0x8125 (withRegs [(1, 0x03), (2, 0x05)]) (fun t => (readV 1 t, readV 0xF t)) = some (0xFE, 0) ∧
      after 0x8125 (withRegs [(1, 0x05), (2, 0x05)]) (fun t => (readV 1 t, readV 0xF t)) = some (0x00, 1) := by decide
/-- B3.9, B3.10: VF as destination and as source. -/
theorem test_sub_vf :
    after 0x8F25 (withRegs [(0xF, 0x10), (2, 0x01)]) (readV 0xF) = some 0x0F ∧
      after 0x81F5 (withRegs [(1, 0x05), (0xF, 0x07)]) (fun t => (readV 1 t, readV 0xF t)) = some (0xFE, 0) := by decide
/-- B3.11, B3.14: `y` is ignored. -/
theorem test_shr :
    after 0x8106 (withRegs [(1, 0x05)]) (fun t => (readV 1 t, readV 0xF t)) = some (0x02, 1) ∧
      after 0x8126 (withRegs [(1, 0x04), (2, 0xFF)]) (fun t => (readV 1 t, readV 0xF t)) = some (0x02, 0) := by decide
/-- B3.13. -/
theorem test_shr_vf :
    after 0x8F06 (withRegs [(0xF, 0x05)]) (readV 0xF) = some 0x02 := by decide
/-- B3.15, B3.16. -/
theorem test_subn :
    after 0x8127 (withRegs [(1, 0x03), (2, 0x05)]) (fun t => (readV 1 t, readV 0xF t)) = some (0x02, 1) ∧
      after 0x8127 (withRegs [(1, 0x05), (2, 0x03)]) (fun t => (readV 1 t, readV 0xF t)) = some (0xFE, 0) := by decide
/-- B3.17. -/
theorem test_subn_vf :
    after 0x8F27 (withRegs [(0xF, 0x01), (2, 0x10)]) (readV 0xF) = some 0x0F := by decide
/-- B3.18, B3.19. -/
theorem test_shl :
    after 0x810E (withRegs [(1, 0x81)]) (fun t => (readV 1 t, readV 0xF t)) = some (0x02, 1) ∧
      after 0x810E (withRegs [(1, 0x40)]) (fun t => (readV 1 t, readV 0xF t)) = some (0x80, 0) := by decide
/-- B3.20. -/
theorem test_shl_vf :
    after 0x8F0E (withRegs [(0xF, 0x81)]) (readV 0xF) = some 0x02 := by decide
/-- B3.28: the byte the host lined up, under the mask; it is used up. -/
theorem test_rnd :
    after 0xC30F { State.reset with randomBytes := [0xAB, 0xCD] } (fun t => (readV 3 t, t.randomBytes)) = some (0x0B, [0xCD]) := by decide
/-- B3.29. -/
theorem test_rnd_vf :
    after 0xCFF0 { State.reset with randomBytes := [0xAB] } (readV 0xF) = some 0xA0 := by decide
/-- B4.1. -/
theorem test_ldI :
    after 0xA300 State.reset (·.i) = some 0x300 := by decide
/-- B4.3, B4.4: the sum wraps, VF is kept. -/
theorem test_addIVx :
    after 0xF01E { withRegs [(0, 0x01), (0xF, 0x33)] with i := 0xFFF } (fun t => (t.i, readV 0xF t)) = some (0x000, 0x33) ∧
      after 0xFF1E { withRegs [(0xF, 0xFF)] with i := 0xF00 } (·.i) = some 0xFFF := by decide
/-- B6.2, B6.3: the whole byte counts. -/
theorem test_ldFVx :
    after 0xF029 (withRegs [(0, 0x0A)]) (·.i) = some 0x032 ∧ after 0xF029 (withRegs [(0, 0xFF)]) (·.i) = some 0x4FB := by decide
/-- B6.7: across the top of memory. -/
theorem test_ldBVx :
    after 0xF033 { withRegs [(0, 0x7B)] with i := 0xFFE }
        (fun t => (readMem 0xFFE t, readMem 0xFFF t, readMem 0x000 t, t.i)) = some (1, 2, 3, 0xFFE) := by decide
/-- B6.5. -/
theorem test_ldBVx_top :
    after 0xF033 { withRegs [(0, 0xFF)] with i := 0x300 }
        (fun t => (readMem 0x300 t, readMem 0x301 t, readMem 0x302 t)) = some (2, 5, 5) := by decide
/-- B5.2: across the top of memory; `I` is kept. -/
theorem test_ldMiVx :
    after 0xF255 { withRegs [(0, 1), (1, 2), (2, 3)] with i := 0xFFE }
        (fun t => (readMem 0xFFE t, readMem 0xFFF t, readMem 0x000 t, t.i)) = some (1, 2, 3, 0xFFE) := by decide
/-- B5.4: only V0. -/
theorem test_ldMiVx_one :
    after 0xF055 { withRegs [(0, 0x77), (1, 0x88)] with i := 0x300 }
        (fun t => (readMem 0x300 t, readMem 0x301 t)) = some (0x77, 0) := by decide
/-- B5.5: nothing past Vx. -/
theorem test_ldVxMi :
    after 0xF265 { withBytes 0x300 [2, 3, 4, 5] State.reset with i := 0x300 }
        (fun t => (readV 0 t, readV 1 t, readV 2 t, readV 3 t, t.i)) = some (2, 3, 4, 0, 0x300) := by decide
/-- B7.9. -/
theorem test_cls :
    after 0x00E0 (setPixel 5 6 true State.reset) (fun t => pixel 5 6 t) = some false := by decide
/-- B7.2: across the right edge; B7.1: no rows, and VF cleared all the same. -/
theorem test_drw_wraps :
    after 0xD011 { withBytes 0x300 [0xFF] (withRegs [(0, 0x3C), (1, 0x05)]) with i := 0x300 }
        (fun t => (pixel 60 5 t, pixel 63 5 t, pixel 0 5 t, pixel 3 5 t, pixel 4 5 t, readV 0xF t)) =
        some (true, true, true, true, false, 0) ∧
      after 0xD010 (withRegs [(0xF, 0x01)]) (readV 0xF) = some 0 := by decide
/-- B7.10: one pixel off, one on; B7.6: VF as the column, and no collision afterwards. -/
theorem test_drw_collides :
    after 0xD011 { withBytes 0x300 [0xC0] (setPixel 0 0 true State.reset) with i := 0x300 }
        (fun t => (pixel 0 0 t, pixel 1 0 t, readV 0xF t)) = some (false, true, 1) ∧
      after 0xDF01 { withBytes 0x300 [0x80] (withRegs [(0xF, 0x03)]) with i := 0x300 }
        (fun t => (pixel 3 0 t, pixel 0 0 t, readV 0xF t)) = some (true, false, 0) := by decide
/-- B8.2, B8.5: the low nibble names the key. -/
theorem test_skp :
    after 0xE09E { withRegs [(0, 0x05)] with keys := 0 } (·.pc) = some 0x202 ∧
      after 0xE09E { withRegs [(0, 0x15)] with keys := 0x0020 } (·.pc) = some 0x204 := by decide
/-- B8.3, B8.4. -/
theorem test_sknp :
    after 0xE0A1 { withRegs [(0, 0x05)] with keys := 0 } (·.pc) = some 0x204 ∧
      after 0xE0A1 { withRegs [(0, 0x05)] with keys := 0x0020 } (·.pc) = some 0x202 := by decide
/-- 46_keys_timers.md R273, example. -/
theorem test_ldVxK :
    after 0xFB0A { State.reset with pc := 0x204 } (fun t => (t.run.code, t.waitX, t.pc)) = some (1, 0xB, 0x206) := by decide
/-- B9.1. -/
theorem test_ldVxDt :
    after 0xF307 { State.reset with dt := 0x20 } (readV 3) = some 0x20 := by decide
/-- B9.2, before the tick. -/
theorem test_ldDtVx :
    after 0xF015 (withRegs [(0, 0x03)]) (·.dt) = some 0x03 := by decide
/-- 46_keys_timers.md R277. -/
theorem test_ldStVx :
    after 0xF018 (withRegs [(0, 0x02)]) (fun t => (t.st, t.soundGate)) = some (0x02, false) := by decide

/-! ## Host calls and the end of a call -/

/-- B8.8: the lowest of keys 5 and 9. -/
theorem test_key_wait_resolves :
    (stateOf (step { State.reset with run := .waitingForKey, waitX := 3, hostCalls := [.cycle 0 0x0220] })).map
        (fun t => (readV 3 t, t.run)) = some (0x05, .running) := by decide
/-- B8.9: without an edge the wait goes on. -/
theorem test_no_edge_no_resolution :
    (stateOf (step { State.reset with run := .waitingForKey, waitX := 3, hostCalls := [.cycle 0xFFFF 0] })).map
        (·.run) = some .waitingForKey := by decide
/-- B9.6, B9.8: the end of a call. -/
theorem test_tick :
    (stateOf (step { State.reset with phase := .inCall 10, st := 3 })).map (fun t => (t.dt, t.st, t.soundGate)) =
      some (0, 2, true) := by decide
/-- B9.7: `SPEED = 0` runs nothing and ticks. -/
theorem test_no_slots :
    (stateOf (step { State.reset with phase := .inCall 0, dt := 5, cfg := { Config.defaultParams with speed := 0 } })).map
        (fun t => (t.dt, t.pc)) = some (4, 0x200) := by decide
/-- 10_state.md R48: the host reads WAITX. -/
theorem test_outputs_waitX : (outputs { State.reset with run := .waitingForKey, waitX := 0xB }).waitX = 0xB := by decide
/-- 20_memory.md R87: `Fx55` from one byte before the next instruction reaches its first byte only, `Fx33` at its second. -/
theorem test_store_over_next_instruction :
    after 0xF155 { withBytes 0x202 [0x12, 0x34] (withRegs [(0, 0xAA), (1, 0xBB)]) with i := 0x201 } fetchWord = some 0xBB34 ∧
      after 0xF033 { withBytes 0x202 [0x12, 0x34] (withRegs [(0, 0x7B)]) with i := 0x203 } fetchWord = some 0x1201 := by decide
/-- B10.1. -/
theorem test_load_program :
    (stateOf (step { State.reset with hostCalls := [.loadProgram [0x12, 0x34, 0x56]] })).map (·.mem) =
      some [(0x200, 0x12), (0x201, 0x34), (0x202, 0x56)] := by decide
/-- B10.3. -/
theorem test_load_too_large :
    (stateOf (step { State.reset with hostCalls := [.loadProgram (List.replicate 3585 0x11)] })).map
        (fun t => (t.faultCode.code, t.run.code, t.mem)) = some (4, 2, []) := by
  show (stateOf (.next (if Config.progMax < (List.replicate 3585 (0x11 : Byte)).length then _ else _))).map _ = _
  rw [List.length_replicate, if_pos (by decide)]
  rfl
/-- 20_memory.md R84: with `STARTED = 0` a good load after a failed one writes its bytes and leaves the machine halted (log entry 28). -/
theorem test_load_while_halted :
    (stateOf (step { State.reset with run := .halted, faultCode := .programTooLarge, hostCalls := [.loadProgram [0x12]] })).map
        (fun t => (t.mem, t.run, t.faultCode)) = some ([(0x200, 0x12)], .halted, .programTooLarge) := by decide
/-- B10.4. -/
theorem test_load_late :
    step { State.reset with started := true, hostCalls := [.loadProgram [0x00]] } = .refused .loadAfterStart := rfl
/-- B10.5, B6.2, 20_memory.md R78: glyph `d` is the five bytes from `5 * d`; here 0, A and F. -/
theorem test_font_table :
    (Config.defaultFont.toList.take 5, (Config.defaultFont.toList.drop 50).take 5, Config.defaultFont.toList.drop 75) =
      ([0xF0, 0x90, 0x90, 0x90, 0xF0], [0xF0, 0x90, 0xF0, 0x90, 0x90], [0xF0, 0x80, 0xF0, 0x80, 0x80]) := by decide

/-! ## Witnesses: for each statement with hypotheses, a state and operands that meet all of them -/

/-- A state about to fetch the word `w` in a call that has run `count` instructions. -/
def fetching (w count : Nat) (s : State) : State := { s.withFetchWord 16 w with phase := .inCall count }

/-- A state between transactions, with one call lined up. -/
def lined (c : HostCall) (s : State) : State := { s with phase := .idle, hostCalls := [c] }

/-- A waiting state. -/
def waiting : State := { State.reset with run := .waitingForKey, waitX := 3, started := true }

/-- A halted state. -/
def halted : State := { State.reset with run := .halted, faultCode := .stackUnderflow, faultPc := 0x200, faultOp := 0x00EE, started := true }

theorem test_witness_lined (c : HostCall) (s : State) : NextCallIs c [] (lined c s) := ⟨rfl, rfl⟩

theorem test_witness_DecodeOfEncodeIsTheInstruction : (Instr.jp 0xFFF).wf = true := by decide
theorem test_witness_EncodeOfDecodeIsTheWord : decode 0x81F6 = .ok (.shr 1 0xF) := by decide
theorem test_witness_DecodeFollowsTheDispatchTable_unknown : ∀ r ∈ opcodeTable, ¬r.selects 0x0000 := by decide
theorem test_witness_DecodeFollowsTheDispatchTable_row : ⟨0xF0FF, 0xF065⟩ ∈ opcodeTable ∧ (⟨0xF0FF, 0xF065⟩ : OpcodeRow).selects 0xFF65 := by
  decide
theorem test_witness_NoWordMatchesTwoRows : ⟨0xFFFF, 0x00E0⟩ ∈ opcodeTable ∧ (⟨0xFFFF, 0x00E0⟩ : OpcodeRow).selects 0x00E0 := by decide

/-- First slot of a call. -/
theorem test_witness_StepRunsTheDecodedInstruction :
    InBatch 0 (fetching 0x1ABC 0 State.reset) ∧ (Instr.jp 0xABC).wf = true ∧
      decode (readMem 0x200 (fetching 0x1ABC 0 State.reset) ++ readMem (0x200 + 1) (fetching 0x1ABC 0 State.reset)) = .ok (.jp 0xABC) :=
  ⟨⟨rfl, rfl, by decide⟩, rfl, by decide⟩
/-- Last slot of a call, at the last address. -/
theorem test_witness_StepRunsTheDecodedInstruction_edge :
    InBatch 9 (fetching 0x6042 9 { State.reset with pc := 0xFFF }) ∧
      decode (readMem 0xFFF (fetching 0x6042 9 { State.reset with pc := 0xFFF }) ++
        readMem (0xFFF + 1) (fetching 0x6042 9 { State.reset with pc := 0xFFF })) = .ok (.ldVxNn 0 0x42) :=
  ⟨⟨rfl, rfl, by decide⟩, by decide⟩
theorem test_witness_UnknownWordHaltsTheMachine :
    InBatch 0 (fetching 0x0000 0 State.reset) ∧
      ∀ r ∈ opcodeTable, ¬r.selects (readMem 0x200 (fetching 0 0 State.reset) ++ readMem (0x200 + 1) (fetching 0 0 State.reset)) :=
  ⟨⟨rfl, rfl, by decide⟩, by decide⟩
/-- The slots used up. -/
theorem test_witness_EndOfCycleTicksTheTimers_slots :
    { State.reset with phase := .inCall 10 }.phase = .inCall 10 ∧ State.reset.run ≠ .halted ∧
      ¬(State.reset.run = .running ∧ 10 < State.reset.cfg.speed) := by decide
/-- A key awaited. -/
theorem test_witness_EndOfCycleTicksTheTimers_waiting :
    { waiting with phase := .inCall 0 }.phase = .inCall 0 ∧ waiting.run ≠ .halted ∧ ¬(waiting.run = .running ∧ 0 < waiting.cfg.speed) := by
  decide
/-- A tick, at the least positive values. -/
theorem test_witness_TimersChangeOnlyAtTicksAndWrites_tick :
    (stateOf (step { State.reset with phase := .inCall 10, dt := 1, st := 1 })).map (fun t => (t.dt, t.st)) = some (0, 0) := by decide
/-- The two writes. -/
theorem test_witness_TimersChangeOnlyAtTicksAndWrites_write :
    (stateOf (step (fetching 0xF015 0 (withRegs [(0, 7)])))).map (·.dt) = some 7 ∧
      (stateOf (step (fetching 0xF018 0 (withRegs [(0, 7)])))).map (·.st) = some 7 := by decide
/-- The reset. -/
theorem test_witness_TimersChangeOnlyAtTicksAndWrites_reset :
    (stateOf (step (lined (.reset 1) { State.reset with dt := 9, st := 9 }))).map (fun t => (t.dt, t.st)) = some (0, 0) := by decide
theorem test_witness_StepsOfACallAreTheCycleTransaction : NextCallIs (.cycle 0 0) [] (lined (.cycle 0 0) State.reset) := ⟨rfl, rfl⟩
/-- One entry, and a full stack. -/
theorem test_witness_ReturnPopsTheReturnAddress :
    (0 < { State.reset with sp := 1 }.sp ∧ { State.reset with sp := 1 }.sp ≤ State.reset.stack.length) ∧
      0 < { State.reset with sp := 16 }.sp ∧ { State.reset with sp := 16 }.sp ≤ State.reset.stack.length := by decide
/-- An empty stack, and the last free slot. -/
theorem test_witness_CallPushesTheAdvancedPc :
    State.reset.sp < State.reset.cfg.stackDepth ∧ { State.reset with sp := 15 }.sp < State.reset.cfg.stackDepth ∧
      State.reset.stack.length = State.reset.cfg.stackDepth := by decide
theorem test_witness_CallThenReturnComesBack :
    State.reset.sp < State.reset.cfg.stackDepth ∧ State.reset.stack.length = State.reset.cfg.stackDepth := by decide
theorem test_witness_ReturnOnEmptyStackHalts :
    InBatch 0 (fetching 0x00EE 0 State.reset) ∧ (fetching 0x00EE 0 State.reset).sp = 0 ∧
      readMem 0x200 (fetching 0x00EE 0 State.reset) ++ readMem (0x200 + 1) (fetching 0x00EE 0 State.reset) = (0x00EE : Word) :=
  ⟨⟨rfl, rfl, by decide⟩, rfl, by decide⟩
theorem test_witness_CallOnFullStackHalts :
    InBatch 0 (fetching 0x2300 0 { State.reset with sp := 16 }) ∧
      (fetching 0x2300 0 { State.reset with sp := 16 }).sp = State.reset.cfg.stackDepth ∧
      readMem 0x200 (fetching 0x2300 0 { State.reset with sp := 16 }) ++
        readMem (0x200 + 1) (fetching 0x2300 0 { State.reset with sp := 16 }) = (0x2#4 ++ (0x300 : Addr) : Word) :=
  ⟨⟨rfl, rfl, by decide⟩, rfl, by decide⟩
theorem test_witness_OnlyKeySkipsReadTheKeys : ∀ x, Instr.cls ≠ .skp x ∧ Instr.cls ≠ .sknp x := by simp
theorem test_witness_AddAndSubtractFlagLaws : (0x0 : Reg) ≠ 0xF ∧ (0xE : Reg) ≠ 0xF := by decide
theorem test_witness_ReverseSubtractFlagLaw : (0x0 : Reg) ≠ 0xF ∧ (0xE : Reg) ≠ 0xF := by decide
theorem test_witness_ShiftsMoveVxByOneBit : (0x0 : Reg) ≠ 0xF ∧ (0xE : Reg) ≠ 0xF := by decide
/-- A bit outside the mask, and the empty mask. -/
theorem test_witness_RandomByteIsMasked : (0x0F : Byte).getLsbD 4 = false ∧ (0x00 : Byte).getLsbD 0 = false := by decide
/-- The least and the greatest `x`, with the registers at both ends of the range. -/
theorem test_witness_RegistersAreStored : (0x0 : Reg) ≤ 0x0 ∧ (0x0 : Reg) ≤ 0xF ∧ (0xF : Reg) ≤ 0xF := by decide
/-- A loaded and a kept register. -/
theorem test_witness_RegistersAreLoaded : (0x0 : Reg) ≤ 0x0 ∧ (0x0 : Reg) < 0x1 ∧ (0xF : Reg) ≤ 0xF := by decide
theorem test_witness_StoreThenLoadRestoresTheRegisters : (0xF : Reg) ≤ 0xF := by decide
/-- A sprite that meets a set pixel, at the far corner. -/
theorem test_witness_DrawXorsTheSpriteAndReportsCollision_hit :
    pixel 63 31 (withBytes 0x000 [0x80] (setPixel 63 31 true State.reset)) = true ∧
      spriteCovers (withBytes 0x000 [0x80] (setPixel 63 31 true State.reset)) 63 31 1 63 31 = true := by decide
/-- On a clear screen no sprite meets a set pixel. -/
theorem test_witness_DrawXorsTheSpriteAndReportsCollision_miss :
    ∀ cx cy, cx < 64 → cy < 32 → pixel cx cy State.reset = true → spriteCovers State.reset 63 31 1 cx cy = false := by
  intro cx cy _ _ h
  simp [pixel, State.reset] at h
theorem test_witness_DrawingTwiceRestoresTheScreen : (0xE : Reg) ≠ 0xF ∧ (0x0 : Reg) ≠ 0xF := by decide
theorem test_witness_OnlyClearAndDrawWriteTheScreen :
    (∃ t, exec (.jp 0x200) State.reset = .next t) ∧ Instr.jp 0x200 ≠ .cls ∧ ∀ x y n, Instr.jp 0x200 ≠ .drw x y n :=
  ⟨⟨_, rfl⟩, by decide, by simp⟩
theorem test_witness_OnlyTimerInstructionsTouchTheTimers :
    (∀ x, Instr.cls ≠ .ldDtVx x ∧ Instr.cls ≠ .ldVxDt x) ∧ (∀ x, Instr.cls ≠ .ldStVx x) ∧ ∃ x, Instr.ldStVx 3 = .ldStVx x :=
  ⟨by simp, by simp, 3, rfl⟩
/-- The lowest key alone, the highest alone, and all at once. -/
theorem test_witness_WaitResolvesOnTheLowestNewKey :
    NextCallIs (.cycle 0 0x8000) [] (lined (.cycle 0 0x8000) waiting) ∧ (lined (.cycle 0 0x8000) waiting).run = .waitingForKey ∧
      (0x0001 : BitVec 16) ≠ 0 ∧ (0x8000 : BitVec 16) ≠ 0 ∧ (0xFFFF : BitVec 16) ≠ 0 := ⟨⟨rfl, rfl⟩, rfl, by decide, by decide, by decide⟩
theorem test_witness_WaitingCallOnlyTicksTheTimers :
    NextCallIs (.cycle 0xFFFF 0) [] (lined (.cycle 0xFFFF 0) waiting) ∧ (lined (.cycle 0xFFFF 0) waiting).run = .waitingForKey :=
  ⟨⟨rfl, rfl⟩, rfl⟩
theorem test_witness_CycleWhileHaltedChangesNothing :
    NextCallIs (.cycle 1 1) [] (lined (.cycle 1 1) halted) ∧ (lined (.cycle 1 1) halted).run = .halted := ⟨⟨rfl, rfl⟩, rfl⟩
theorem test_witness_OnlyResetLeavesHalted :
    halted.run = .halted ∧ (stateOf (step (lined (.reset 10) halted))).map (·.run) = some .running := by decide
/-- The four cases: an instruction that goes on, the wait, the two stack errors (a full stack, an empty one). -/
theorem test_witness_OnlyWaitAndStackFaultsStopTheBatch :
    (∃ t, exec .cls State.reset = .next t) ∧ (∃ t, exec (.ldVxK 3) State.reset = .next t) ∧ (∃ t, exec .ret State.reset = .next t) ∧
      ∃ t, exec (.call 0x300) { State.reset with sp := 16 } = .next t := ⟨⟨_, rfl⟩, ⟨_, rfl⟩, ⟨_, rfl⟩, _, rfl⟩
theorem test_witness_OnlyNamedInstructionsWriteIndexMemoryStack :
    (∃ t, exec .cls State.reset = .next t) ∧ (∀ nnn, Instr.cls ≠ .ldI nnn) ∧ (∀ x, Instr.cls ≠ .addIVx x ∧ Instr.cls ≠ .ldFVx x) ∧
      (∀ x, Instr.cls ≠ .ldBVx x ∧ Instr.cls ≠ .ldMiVx x) ∧ Instr.cls ≠ .ret ∧ ∀ nnn, Instr.cls ≠ .call nnn :=
  ⟨⟨_, rfl⟩, by simp, by simp, by simp, by decide, by simp⟩
/-- A step that keeps the configuration, and the reset that changes it. -/
theorem test_witness_ConfigurationIsFixed :
    (stateOf (step { State.reset with phase := .inCall 10 })).map (·.cfg.speed) = some 10 ∧
      (stateOf (step (lined (.reset 7) State.reset))).map (·.cfg.speed) = some 7 := by decide
theorem test_witness_ResetCallRestoresTheResetState :
    NextCallIs (.reset 3) [] (lined (.reset 3) halted) ∧
      NextCallIs (.reset 0) [] (lined (.reset 0) { halted with cfg := { Config.defaultParams with stackDepth := 17 } }) :=
  ⟨⟨rfl, rfl⟩, ⟨rfl, rfl⟩⟩
/-- No bytes, and the most bytes there can be. -/
theorem test_witness_LoadedProgramReadsBack :
    NextCallIs (.loadProgram []) [] (lined (.loadProgram []) State.reset) ∧
      NextCallIs (.loadProgram (List.replicate 3584 0x11)) [] (lined (.loadProgram (List.replicate 3584 0x11)) State.reset) ∧
      State.reset.started = false ∧ ([] : List Byte).length ≤ 3584 ∧ (List.replicate 3584 (0x11 : Byte)).length ≤ 3584 :=
  ⟨⟨rfl, rfl⟩, ⟨rfl, rfl⟩, rfl, by decide, by rw [List.length_replicate]⟩
/-- One byte too many. -/
theorem test_witness_TooLargeProgramHaltsBeforeAnyWrite :
    NextCallIs (.loadProgram (List.replicate 3585 0x11)) [] (lined (.loadProgram (List.replicate 3585 0x11)) State.reset) ∧
      State.reset.started = false ∧ 3584 < (List.replicate 3585 (0x11 : Byte)).length :=
  ⟨⟨rfl, rfl⟩, rfl, by rw [List.length_replicate]; decide⟩
theorem test_witness_FontIsLoadedAtZero :
    NextCallIs .loadFont [] (lined .loadFont State.reset) ∧ (lined .loadFont State.reset).started = false := ⟨⟨rfl, rfl⟩, rfl⟩
theorem test_witness_LoadsAfterTheFirstCycleAreRefused :
    (lined .loadFont waiting).started = true ∧ NextCallIs .loadFont [] (lined .loadFont waiting) ∧
      NextCallIs (.loadProgram [0x00]) [] (lined (.loadProgram [0x00]) waiting) := ⟨rfl, ⟨rfl, rfl⟩, ⟨rfl, rfl⟩⟩
theorem test_witness_UnscriptedHostCallsCycle : State.reset.phase = .idle ∧ State.reset.hostCalls = [] := ⟨rfl, rfl⟩
theorem test_witness_RunningCallEntersItsBatch :
    NextCallIs (.cycle 0x0001 0x8000) [] (lined (.cycle 0x0001 0x8000) State.reset) ∧
      (lined (.cycle 0x0001 0x8000) State.reset).run = .running := ⟨⟨rfl, rfl⟩, rfl⟩
/-- A halted state meets the invariant, and a step answers there. -/
theorem test_witness_StepKeepsTheInvariant : State.Inv halted ∧ ∃ t, step (lined (.cycle 0 0) halted) = .next t := by
  refine ⟨⟨by decide, by decide, by decide, by decide, by decide, fun _ => ⟨rfl, rfl⟩, by decide, ?_, ?_, by decide⟩, _, rfl⟩
  · intro count h
    cases h
  · intro _ h
    exact absurd rfl h
/-- A state inside a call meets the invariant too. -/
theorem test_witness_NoStepFaultsUnderTheInvariant : State.Inv { State.reset with phase := .inCall 10, started := true } := by
  refine ⟨by decide, by decide, by decide, by decide, by decide, ?_, fun _ => ⟨rfl, rfl⟩, ?_, ?_, ?_⟩
  · intro h
    cases h
  · intro count h
    cases h
    decide
  · intro h
    cases h
  · intro h
    cases h

end Sys2Proof.Tests
end

/-!
PROOFS. The host's loaders (spec/20_memory.md R79 to R84): what a load does when it is executed, and the frame of a step that writes
memory alone.
-/

namespace Sys2Proof.Proofs

open Sys2Proof.Machine

/-- A state that differs in memory alone keeps every other part. -/
theorem kept_memory (m : Memory) (s : State) : Kept [.memory] s { s with mem := m } where
  regs _ _ := rfl
  index _ := rfl
  pc _ := rfl
  stack _ := ⟨rfl, rfl⟩
  delay _ := rfl
  sound _ := rfl
  screen _ _ _ := rfl
  memory h := absurd (List.mem_singleton.mpr rfl) h
  runState _ := ⟨rfl, rfl⟩
  faultRecord _ := ⟨rfl, rfl, rfl, rfl⟩
  random _ := ⟨rfl, rfl⟩
  rest := ⟨rfl, rfl, rfl, rfl, rfl⟩

/-- The loaders' copy keeps every part but memory (R79, R81). -/
theorem writeBytes_kept (base : Addr) (bytes : List Byte) (s : State) : Kept [.memory] s (writeBytes base bytes s) := by
  obtain ⟨m, hm⟩ := writeBytes_eq base bytes s
  rw [hm]
  exact kept_memory m s

/-- A program that fits is copied from `PROG_BASE` on (R80, R81). -/
theorem loadProgram_of_fits {bytes : List Byte} (h : bytes.length ≤ 3584) (s : State) :
    loadProgram bytes s = writeBytes (BitVec.ofNat 12 0x200) bytes s :=
  if_neg (Nat.not_lt.mpr h)

/-- Before the first `cycle` the host's next call, a program load, is executed (R84). -/
theorem step_loadProgram {bytes : List Byte} {rest : List HostCall} {s : State} (hc : NextCallIs (.loadProgram bytes) rest s)
    (hs : s.started = false) : step s = .next (loadProgram bytes { s with hostCalls := rest }) := by
  rw [step_lined_up hc.phase hc.calls]
  simp [hostCall, hs]

/-- Settles O51: a program of at most 3584 bytes is copied whole and ends inside the address space, so each byte is read back at its
own address, and the copy keeps every part but memory. -/
theorem loadedProgramReadsBack : Obligations.LoadedProgramReadsBack := by
  intro s bytes rest hcall hstarted hfits
  obtain ⟨hback, hother⟩ := writeBytes_read 0x200 bytes (by omega) { s with hostCalls := rest }
  refine ⟨writeBytes (BitVec.ofNat 12 0x200) bytes { s with hostCalls := rest }, ?_, hback, hother, writeBytes_kept _ _ _⟩
  rw [step_loadProgram hcall hstarted, loadProgram_of_fits hfits]

end Sys2Proof.Proofs

/-!
PROOFS. Flow of control (spec/41_flow.md): the frame of a step that moves the program counter alone, and JP.
-/

namespace Sys2Proof.Proofs

open Sys2Proof.Machine

/-- Moving the program counter keeps every other part. -/
theorem setPc_kept (a : Addr) (s : State) : Kept [.pc] s (setPc a s) where
  regs _ r := readV_setPc s r a
  index _ := setPc_i s a
  pc h := absurd (List.mem_singleton.mpr rfl) h
  stack _ := ⟨setPc_sp s a, setPc_stack s a⟩
  delay _ := setPc_dt s a
  sound _ := setPc_st s a
  screen _ cx cy := pixel_setPc s cx cy a
  memory _ q := readMem_setPc s q a
  runState _ := ⟨setPc_run s a, setPc_waitX s a⟩
  faultRecord _ := ⟨setPc_faultCode s a, setPc_faultPc s a, setPc_faultOp s a, setPc_soundGate s a⟩
  random _ := ⟨setPc_randomBytes s a, setPc_fresh s a⟩
  rest := ⟨setPc_cfg s a, setPc_started s a, setPc_phase s a, setPc_keys s a, setPc_hostCalls s a⟩

/-- Family 1 is JP, and its target is the address field (R110 row 3). -/
theorem decode_fmtAddr_jp (nnn : Addr) : decode (fmtAddr 0x1#4 nnn) = .ok (.jp nnn) := by
  obtain ⟨hfamily, htarget⟩ := fmtAddr_fields 0x1#4 nnn
  simp only [decode, hfamily, htarget]

/-- What JP does: it moves the program counter to its target (R162). -/
theorem exec_jp (nnn : Addr) (s : State) : exec (.jp nnn) s = .next (setPc nnn s) := rfl

/-- Settles O16: the word of format ADDR in family 1 decodes to JP, and JP only moves the program counter. -/
theorem jumpSetsPc : Obligations.JumpSetsPc := by
  intro s nnn
  exact ⟨decode_fmtAddr_jp nnn, setPc nnn s, exec_jp nnn s, setPc_pc s nnn, setPc_kept nnn s⟩

end Sys2Proof.Proofs

/-!
PROOFS. Loads and the immediate add (spec/43_alu.md): the frame of a step that writes one register alone, and the instructions
whose whole effect is such a write.
-/

namespace Sys2Proof.Proofs

open Sys2Proof.Machine

/-- Writing a register keeps every part but the registers. -/
theorem writeV_kept (x : Reg) (b : Byte) (s : State) : Kept [.regs] s (writeV x b s) where
  regs h := absurd (List.mem_singleton.mpr rfl) h
  index _ := writeV_i s x b
  pc _ := writeV_pc s x b
  stack _ := ⟨writeV_sp s x b, writeV_stack s x b⟩
  delay _ := writeV_dt s x b
  sound _ := writeV_st s x b
  screen _ cx cy := pixel_writeV s cx cy x b
  memory _ q := readMem_writeV s q x b
  runState _ := ⟨writeV_run s x b, writeV_waitX s x b⟩
  faultRecord _ := ⟨writeV_faultCode s x b, writeV_faultPc s x b, writeV_faultOp s x b, writeV_soundGate s x b⟩
  random _ := ⟨writeV_randomBytes s x b, writeV_fresh s x b⟩
  rest := ⟨writeV_cfg s x b, writeV_started s x b, writeV_phase s x b, writeV_keys s x b, writeV_hostCalls s x b⟩

/-- A register written reads as the byte written. -/
@[simp] theorem readV_writeV_same (x : Reg) (b : Byte) (s : State) : readV x (writeV x b s) = b := by
  rw [readV_writeV, if_pos rfl]

/-- Writing a register leaves every other register as it was. -/
theorem writeV_regsKept (x : Reg) (b : Byte) (s : State) : RegsKept [x] s (writeV x b s) := by
  intro r hr
  rw [readV_writeV, if_neg (mt List.mem_singleton.mpr hr)]

/-- Family 6 is LD Vx, nn (R110). -/
theorem decode_fmtXnn_ldVxNn (x : Reg) (nn : Byte) : decode (fmtXnn 0x6#4 x nn) = .ok (.ldVxNn x nn) := by
  obtain ⟨hfamily, hx, hnn⟩ := fmtXnn_fields 0x6#4 x nn
  simp only [decode, hfamily, hx, hnn]

/-- Family 7 is ADD Vx, nn (R110). -/
theorem decode_fmtXnn_addVxNn (x : Reg) (nn : Byte) : decode (fmtXnn 0x7#4 x nn) = .ok (.addVxNn x nn) := by
  obtain ⟨hfamily, hx, hnn⟩ := fmtXnn_fields 0x7#4 x nn
  simp only [decode, hfamily, hx, hnn]

/-- Family 8 with sub-operation 0 is LD Vx, Vy (R110). -/
theorem decode_fmtXyn_ldVxVy (x y : Reg) : decode (fmtXyn 0x8#4 x y 0x0#4) = .ok (.ldVxVy x y) := by
  obtain ⟨hfamily, hx, hy, hn⟩ := fmtXyn_fields 0x8#4 x y 0x0#4
  simp only [decode, decode8, hfamily, hx, hy, hn]

/-- What LD Vx, nn does: it writes the immediate to `Vx` (R191). -/
theorem exec_ldVxNn (x : Reg) (nn : Byte) (s : State) : exec (.ldVxNn x nn) s = .next (writeV x nn s) := rfl

/-- What LD Vx, Vy does: it writes `Vy` to `Vx` (R193). -/
theorem exec_ldVxVy (x y : Reg) (s : State) : exec (.ldVxVy x y) s = .next (writeV x (readV y s) s) := rfl

/-- What ADD Vx, nn does: it writes the sum to `Vx`, and no flag (R192). -/
theorem exec_addVxNn (x : Reg) (nn : Byte) (s : State) : exec (.addVxNn x nn) s = .next (writeV x (readV x s + nn) s) := rfl

/-- Settles O21: each of the two words decodes to its load, and each load is one register write, of the immediate or of `Vy`. -/
theorem loadsWriteOneRegister : Obligations.LoadsWriteOneRegister := by
  intro s x y nn
  refine ⟨decode_fmtXnn_ldVxNn x nn, decode_fmtXyn_ldVxVy x y, ?immediate, ?register⟩
  case immediate =>
    exact ⟨writeV x nn s, exec_ldVxNn x nn s, readV_writeV_same x nn s, writeV_regsKept x nn s, writeV_kept x nn s⟩
  case register =>
    exact ⟨writeV x (readV y s) s, exec_ldVxVy x y s, readV_writeV_same x _ s, writeV_regsKept x _ s, writeV_kept x _ s⟩

/-- Settles O22: the word decodes to ADD Vx, nn, which is one register write, of a sum of bytes: a sum mod 256. -/
theorem addImmediateWrapsWithoutCarry : Obligations.AddImmediateWrapsWithoutCarry := by
  intro s x nn
  refine ⟨decode_fmtXnn_addVxNn x nn, writeV x (readV x s + nn) s, exec_addVxNn x nn s, ?_, writeV_regsKept x _ s, writeV_kept x _ s⟩
  rw [readV_writeV_same]
  exact BitVec.toNat_add (readV x s) nn

end Sys2Proof.Proofs

/-!
PROOFS. The index register (spec/44_index_memory.md): the frame of a step that writes `I` alone, the numbers of the address
computations, and the three instructions whose whole effect is such a write.
-/

namespace Sys2Proof.Proofs

open Sys2Proof.Machine

/-- Writing the index register keeps every other part. -/
theorem setI_kept (a : Addr) (s : State) : Kept [.index] s (setI a s) where
  regs _ r := readV_setI s r a
  index h := absurd (List.mem_singleton.mpr rfl) h
  pc _ := setI_pc s a
  stack _ := ⟨setI_sp s a, setI_stack s a⟩
  delay _ := setI_dt s a
  sound _ := setI_st s a
  screen _ cx cy := pixel_setI s cx cy a
  memory _ q := readMem_setI s q a
  runState _ := ⟨setI_run s a, setI_waitX s a⟩
  faultRecord _ := ⟨setI_faultCode s a, setI_faultPc s a, setI_faultOp s a, setI_soundGate s a⟩
  random _ := ⟨setI_randomBytes s a, setI_fresh s a⟩
  rest := ⟨setI_cfg s a, setI_started s a, setI_phase s a, setI_keys s a, setI_hostCalls s a⟩

/-- Extending a byte to an address keeps its number: no sign is extended (R11). -/
@[simp] theorem zext12_toNat (b : Byte) : (zext12 b).toNat = b.toNat :=
  BitVec.toNat_setWidth_of_le (by decide)

/-- The address of a glyph is five times the whole byte: at most 1275, so it never wraps (R234). -/
@[simp] theorem glyphAddr_toNat (b : Byte) : (glyphAddr b).toNat = b.toNat * 5 := by
  have hfits : b.toNat * 5 < 2 ^ 12 := by have := b.isLt; omega
  calc (zext12 b * 5).toNat
      _ = (zext12 b).toNat * 5 % 2 ^ 12 := BitVec.toNat_mul (zext12 b) 5
      _ = b.toNat * 5 := by rw [zext12_toNat, Nat.mod_eq_of_lt hfits]

/-- Family A is LD I, nnn (R110). -/
theorem decode_fmtAddr_ldI (nnn : Addr) : decode (fmtAddr 0xA#4 nnn) = .ok (.ldI nnn) := by
  obtain ⟨hfamily, hnnn⟩ := fmtAddr_fields 0xA#4 nnn
  simp only [decode, hfamily, hnnn]

/-- A word of family F is decoded by its sub-operation (R110). -/
theorem decode_of_family_F {op : Word} (hfamily : opFamily op = 0xF#4) : decode op = decodeF op := by
  rw [decode, hfamily]
  rfl

/-- Family F with sub-operation 1E is ADD I, Vx (R110). -/
theorem decode_fmtX_addIVx (x : Reg) : decode (fmtX 0xF#4 x 0x1E#8) = .ok (.addIVx x) := by
  obtain ⟨hfamily, hx, hsub⟩ := fmtX_fields 0xF#4 x 0x1E#8
  simp only [decode_of_family_F hfamily, decodeF, hx, hsub]

/-- Family F with sub-operation 29 is LD F, Vx (R110). -/
theorem decode_fmtX_ldFVx (x : Reg) : decode (fmtX 0xF#4 x 0x29#8) = .ok (.ldFVx x) := by
  obtain ⟨hfamily, hx, hsub⟩ := fmtX_fields 0xF#4 x 0x29#8
  simp only [decode_of_family_F hfamily, decodeF, hx, hsub]

/-- What LD I, nnn does: it writes the address to `I` (R231). -/
theorem exec_ldI (nnn : Addr) (s : State) : exec (.ldI nnn) s = .next (setI nnn s) := rfl

/-- What ADD I, Vx does: it writes the sum to `I`, and no flag (R233). -/
theorem exec_addIVx (x : Reg) (s : State) : exec (.addIVx x) s = .next (setI (s.i + zext12 (readV x s)) s) := rfl

/-- What LD F, Vx does: it writes the glyph address of the whole byte to `I` (R234). -/
theorem exec_ldFVx (x : Reg) (s : State) : exec (.ldFVx x) s = .next (setI (glyphAddr (readV x s)) s) := rfl

/-- Settles O28: each of the three words decodes to its instruction, and each instruction is one write of `I`: of the address, of a
sum of addresses, which is a sum mod 4096, or of a glyph address, which never wraps. -/
theorem indexInstructionsWriteI : Obligations.IndexInstructionsWriteI := by
  intro s x nnn
  refine ⟨decode_fmtAddr_ldI nnn, decode_fmtX_addIVx x, decode_fmtX_ldFVx x, ?load, ?add, ?glyph⟩
  case load =>
    exact ⟨setI nnn s, exec_ldI nnn s, setI_i s nnn, setI_kept nnn s⟩
  case add =>
    refine ⟨setI (s.i + zext12 (readV x s)) s, exec_addIVx x s, ?_, setI_kept _ s⟩
    rw [setI_i, BitVec.toNat_add, zext12_toNat]
  case glyph =>
    exact ⟨setI (glyphAddr (readV x s)) s, exec_ldFVx x s, glyphAddr_toNat (readV x s), setI_kept _ s⟩

end Sys2Proof.Proofs

/-!
PROOFS. The framebuffer (spec/45_display.md): the frame of a step that clears the screen, and CLS.
-/

namespace Sys2Proof.Proofs

open Sys2Proof.Machine

/-- Clearing the screen keeps every other part. -/
theorem clearScreen_kept (s : State) : Kept [.screen] s (clearScreen s) where
  regs _ r := readV_clearScreen s r
  index _ := clearScreen_i s
  pc _ := clearScreen_pc s
  stack _ := ⟨clearScreen_sp s, clearScreen_stack s⟩
  delay _ := clearScreen_dt s
  sound _ := clearScreen_st s
  screen h := absurd (List.mem_singleton.mpr rfl) h
  memory _ q := readMem_clearScreen s q
  runState _ := ⟨clearScreen_run s, clearScreen_waitX s⟩
  faultRecord _ := ⟨clearScreen_faultCode s, clearScreen_faultPc s, clearScreen_faultOp s, clearScreen_soundGate s⟩
  random _ := ⟨clearScreen_randomBytes s, clearScreen_fresh s⟩
  rest := ⟨clearScreen_cfg s, clearScreen_started s, clearScreen_phase s, clearScreen_keys s, clearScreen_hostCalls s⟩

/-- The one word of CLS, which has no operand (R110). -/
theorem decode_cls : decode 0x00E0 = .ok .cls := by decide

/-- What CLS does: it clears the screen (R251). -/
theorem exec_cls (s : State) : exec .cls s = .next (clearScreen s) := rfl

/-- Settles O34: the word decodes to CLS, and CLS only clears the screen, after which every pixel is false. -/
theorem clearLeavesEveryPixelFalse : Obligations.ClearLeavesEveryPixelFalse := by
  refine ⟨decode_cls, fun s => ?_⟩
  exact ⟨clearScreen s, exec_cls s, fun px py => pixel_clearScreen px py s, clearScreen_kept s⟩

end Sys2Proof.Proofs

/-!
PROOFS. The decoder and the encoder (spec/30_encoding.md): each is the other's inverse, and both follow the dispatch table of R110.
-/

namespace Sys2Proof.Proofs

open Sys2Proof.Machine

/-- Decoding the word of an instruction gives the instruction back: the fields of its format are its operands (R102, R103). -/
theorem decode_encode (i : Instr) : decode (encode i) = .ok i := by
  cases i
  case cls | ret => decide
  case jp | call | ldI | jpV0 => simp only [encode, decode, fmtAddr_fields, BitVec.ofNat_eq_ofNat]
  case seVxNn | sneVxNn | ldVxNn | addVxNn | rnd => simp only [encode, decode, fmtXnn_fields, BitVec.ofNat_eq_ofNat]
  case seVxVy | sneVxVy => simp only [encode, decode, fmtXyn_fields, BitVec.ofNat_eq_ofNat, if_true]
  case drw => simp only [encode, decode, fmtXyn_fields, BitVec.ofNat_eq_ofNat]
  case ldVxVy | or | and | xor | addVxVy | sub | shr | subn | shl =>
    simp only [encode, decode, decode8, fmtXyn_fields, BitVec.ofNat_eq_ofNat]
  case skp | sknp => simp only [encode, decode, decodeE, fmtX_fields, BitVec.ofNat_eq_ofNat]
  case ldVxDt | ldVxK | ldDtVx | ldStVx | addIVx | ldFVx | ldBVx | ldMiVx | ldVxMi =>
    refine (decode_of_family_F (fmtX_fields _ _ _).1).trans ?_
    simp only [decodeF, fmtX_fields, BitVec.ofNat_eq_ofNat]

/-! A word is its format filled with its own fields (R103). -/

theorem fmtAddr_of_fields (op : Word) : fmtAddr (opFamily op) (opNNN op) = op := by
  apply BitVec.eq_of_getLsbD_eq
  intro k hk
  simp only [fmtAddr, opFamily, opNNN, BitVec.getLsbD_append, BitVec.getLsbD_extractLsb']
  interval_cases k <;> rfl

theorem fmtXnn_of_fields (op : Word) : fmtXnn (opFamily op) (opX op) (opNN op) = op := by
  apply BitVec.eq_of_getLsbD_eq
  intro k hk
  simp only [fmtXnn, opFamily, opX, opNN, BitVec.getLsbD_append, BitVec.getLsbD_extractLsb']
  interval_cases k <;> rfl

theorem fmtXyn_of_fields (op : Word) : fmtXyn (opFamily op) (opX op) (opY op) (opN op) = op := by
  apply BitVec.eq_of_getLsbD_eq
  intro k hk
  simp only [fmtXyn, opFamily, opX, opY, opN, BitVec.getLsbD_append, BitVec.getLsbD_extractLsb']
  interval_cases k <;> rfl

/-- A family that none of the other arms of the decoder names is family F. -/
theorem family_F_of_ne {f : BitVec 4} (h0 : f ≠ 0x0#4) (h1 : f ≠ 0x1#4) (h2 : f ≠ 0x2#4) (h3 : f ≠ 0x3#4) (h4 : f ≠ 0x4#4)
    (h5 : f ≠ 0x5#4) (h6 : f ≠ 0x6#4) (h7 : f ≠ 0x7#4) (h8 : f ≠ 0x8#4) (h9 : f ≠ 0x9#4) (hA : f ≠ 0xA#4) (hB : f ≠ 0xB#4)
    (hC : f ≠ 0xC#4) (hD : f ≠ 0xD#4) (hE : f ≠ 0xE#4) : f = 0xF#4 := by
  bv_omega

theorem encode_of_decode0 {op : Word} {i : Instr} (h : decode0 op = .ok i) : encode i = op := by
  unfold decode0 at h
  split at h
  · cases h; exact Eq.symm ‹_›
  · split at h
    · cases h; exact Eq.symm ‹_›
    · cases h

theorem encode_of_decode8 {op : Word} {i : Instr} (hfamily : opFamily op = 0x8#4) (h : decode8 op = .ok i) : encode i = op := by
  have hword := fmtXyn_of_fields op
  unfold decode8 at h
  split at h <;> cases h
  all_goals rw [hfamily, ‹opN op = _›] at hword; exact hword

theorem encode_of_decodeE {op : Word} {i : Instr} (hfamily : opFamily op = 0xE#4) (h : decodeE op = .ok i) : encode i = op := by
  have hword := fmtXnn_of_fields op
  unfold decodeE at h
  split at h <;> cases h
  all_goals rw [hfamily, ‹opNN op = _›] at hword; exact hword

theorem encode_of_decodeF {op : Word} {i : Instr} (hfamily : opFamily op = 0xF#4) (h : decodeF op = .ok i) : encode i = op := by
  have hword := fmtXnn_of_fields op
  unfold decodeF at h
  split at h <;> cases h
  all_goals rw [hfamily, ‹opNN op = _›] at hword; exact hword

/-- A word that decodes is the word of its instruction: each arm of the decoder keeps every field of the word. -/
theorem encode_of_decode {op : Word} {i : Instr} (h : decode op = .ok i) : encode i = op := by
  have haddr := fmtAddr_of_fields op
  have hxnn := fmtXnn_of_fields op
  have hxyn := fmtXyn_of_fields op
  unfold decode at h
  split at h
  case h_1 => exact encode_of_decode0 h
  case h_9 hf => exact encode_of_decode8 hf h
  case h_15 hf => exact encode_of_decodeE hf h
  case h_16 h0 h1 h2 h3 h4 h5 h6 h7 h8 h9 hA hB hC hD hE =>
    exact encode_of_decodeF (family_F_of_ne h0 h1 h2 h3 h4 h5 h6 h7 h8 h9 hA hB hC hD hE) h
  case h_6 | h_10 =>
    split at h <;> cases h
    rw [‹opFamily op = _›, ‹opN op = _›] at hxyn
    exact hxyn
  case h_2 | h_3 | h_11 | h_12 => cases h; rw [‹opFamily op = _›] at haddr; exact haddr
  case h_4 | h_5 | h_7 | h_8 | h_13 => cases h; rw [‹opFamily op = _›] at hxnn; exact hxnn
  case h_14 => cases h; rw [‹opFamily op = _›] at hxyn; exact hxyn

/-- The decoder rejects a word for one reason only (R107). -/
theorem decode_error {op : Word} {e : DecodeReject} (h : decode op = .error e) : e = .unknownOpcode := by
  unfold decode decode0 decode8 decodeE decodeF at h
  repeat' split at h
  all_goals cases h
  all_goals rfl

/-- The row of an instruction is one of the table's (R110). -/
theorem rowOf_mem (i : Instr) : rowOf i ∈ opcodeTable := by
  cases i <;> exact of_decide_eq_true rfl

/-- The word of an instruction selects the instruction's own row. -/
theorem rowOf_selects_encode (i : Instr) : (rowOf i).selects (encode i) := by
  cases i
  case cls | ret => rfl
  case jp | call | ldI | jpV0 => exact Laws.fmtAddr_row _ _
  case seVxNn | sneVxNn | ldVxNn | addVxNn | rnd => exact Laws.fmtXnn_row _ _ _
  case drw => exact Laws.fmtXyn_family_row _ _ _ _
  case skp | sknp | ldVxDt | ldVxK | ldDtVx | ldStVx | addIVx | ldFVx | ldBVx | ldMiVx | ldVxMi => exact Laws.fmtX_row _ _ _
  all_goals exact Laws.fmtXyn_row _ _ _ _

/-! A word that selects a row is the row's pattern with the word's own operands filled in, one lemma per mask (R106, R110). -/

theorem opFamily_of_mask {op : Word} {f : BitVec 4} (h : op &&& 0xF000 = fmtAddr f 0) : opFamily op = f := by
  have hfields := (fmtAddr_fields f 0).1
  rw [← h] at hfields
  rw [← hfields]
  simp only [opFamily, BitVec.extractLsb'_and]
  exact (BitVec.and_allOnes).symm

theorem opFamily_opN_of_mask {op : Word} {f n : BitVec 4} (h : op &&& 0xF00F = fmtXyn f 0 0 n) : opFamily op = f ∧ opN op = n := by
  obtain ⟨hfamily, -, -, hn⟩ := fmtXyn_fields f 0 0 n
  rw [← h] at hfamily hn
  simp only [opFamily, opN, BitVec.extractLsb'_and] at hfamily hn
  exact ⟨BitVec.and_allOnes.symm.trans hfamily, BitVec.and_allOnes.symm.trans hn⟩

theorem opFamily_opNN_of_mask {op : Word} {f : BitVec 4} {sub : Byte} (h : op &&& 0xF0FF = fmtX f 0 sub) :
    opFamily op = f ∧ opNN op = sub := by
  obtain ⟨hfamily, -, hsub⟩ := fmtX_fields f 0 sub
  rw [← h] at hfamily hsub
  simp only [opFamily, opNN, BitVec.extractLsb'_and] at hfamily hsub
  exact ⟨BitVec.and_allOnes.symm.trans hfamily, BitVec.and_allOnes.symm.trans hsub⟩

theorem fmtAddr_eq_of_mask {op : Word} (f : BitVec 4) (h : op &&& 0xF000 = fmtAddr f 0) : fmtAddr f (opNNN op) = op := by
  rw [← opFamily_of_mask h]
  exact fmtAddr_of_fields op

theorem fmtXnn_eq_of_mask {op : Word} (f : BitVec 4) (h : op &&& 0xF000 = fmtAddr f 0) :
    fmtXnn f (opX op) (opNN op) = op := by
  rw [← opFamily_of_mask h]
  exact fmtXnn_of_fields op

theorem fmtXyn_eq_of_family_mask {op : Word} (f : BitVec 4) (h : op &&& 0xF000 = fmtAddr f 0) :
    fmtXyn f (opX op) (opY op) (opN op) = op := by
  rw [← opFamily_of_mask h]
  exact fmtXyn_of_fields op

theorem fmtXyn_eq_of_mask {op : Word} (f n : BitVec 4) (h : op &&& 0xF00F = fmtXyn f 0 0 n) :
    fmtXyn f (opX op) (opY op) n = op := by
  obtain ⟨hfamily, hn⟩ := opFamily_opN_of_mask h
  rw [← hfamily, ← hn]
  exact fmtXyn_of_fields op

theorem fmtX_eq_of_mask {op : Word} (f : BitVec 4) (sub : Byte) (h : op &&& 0xF0FF = fmtX f 0 sub) :
    fmtX f (opX op) sub = op := by
  obtain ⟨hfamily, hsub⟩ := opFamily_opNN_of_mask h
  rw [← hfamily, ← hsub]
  exact fmtXnn_of_fields op

/-- A word that selects the row of an instruction is the word of an instruction of that row, its own operands filled in. -/
theorem exists_encode_of_selects {i : Instr} {op : Word} (h : (rowOf i).selects op) :
    ∃ j, encode j = op ∧ rowOf j = rowOf i := by
  cases i with
  | cls => exact ⟨.cls, h.symm.trans BitVec.and_allOnes, rfl⟩
  | ret => exact ⟨.ret, h.symm.trans BitVec.and_allOnes, rfl⟩
  | jp => exact ⟨.jp (opNNN op), fmtAddr_eq_of_mask 0x1 h, rfl⟩
  | call => exact ⟨.call (opNNN op), fmtAddr_eq_of_mask 0x2 h, rfl⟩
  | seVxNn => exact ⟨.seVxNn (opX op) (opNN op), fmtXnn_eq_of_mask 0x3 h, rfl⟩
  | sneVxNn => exact ⟨.sneVxNn (opX op) (opNN op), fmtXnn_eq_of_mask 0x4 h, rfl⟩
  | seVxVy => exact ⟨.seVxVy (opX op) (opY op), fmtXyn_eq_of_mask 0x5 0x0 h, rfl⟩
  | ldVxNn => exact ⟨.ldVxNn (opX op) (opNN op), fmtXnn_eq_of_mask 0x6 h, rfl⟩
  | addVxNn => exact ⟨.addVxNn (opX op) (opNN op), fmtXnn_eq_of_mask 0x7 h, rfl⟩
  | ldVxVy => exact ⟨.ldVxVy (opX op) (opY op), fmtXyn_eq_of_mask 0x8 0x0 h, rfl⟩
  | or => exact ⟨.or (opX op) (opY op), fmtXyn_eq_of_mask 0x8 0x1 h, rfl⟩
  | and => exact ⟨.and (opX op) (opY op), fmtXyn_eq_of_mask 0x8 0x2 h, rfl⟩
  | xor => exact ⟨.xor (opX op) (opY op), fmtXyn_eq_of_mask 0x8 0x3 h, rfl⟩
  | addVxVy => exact ⟨.addVxVy (opX op) (opY op), fmtXyn_eq_of_mask 0x8 0x4 h, rfl⟩
  | sub => exact ⟨.sub (opX op) (opY op), fmtXyn_eq_of_mask 0x8 0x5 h, rfl⟩
  | shr => exact ⟨.shr (opX op) (opY op), fmtXyn_eq_of_mask 0x8 0x6 h, rfl⟩
  | subn => exact ⟨.subn (opX op) (opY op), fmtXyn_eq_of_mask 0x8 0x7 h, rfl⟩
  | shl => exact ⟨.shl (opX op) (opY op), fmtXyn_eq_of_mask 0x8 0xE h, rfl⟩
  | sneVxVy => exact ⟨.sneVxVy (opX op) (opY op), fmtXyn_eq_of_mask 0x9 0x0 h, rfl⟩
  | ldI => exact ⟨.ldI (opNNN op), fmtAddr_eq_of_mask 0xA h, rfl⟩
  | jpV0 => exact ⟨.jpV0 (opNNN op), fmtAddr_eq_of_mask 0xB h, rfl⟩
  | rnd => exact ⟨.rnd (opX op) (opNN op), fmtXnn_eq_of_mask 0xC h, rfl⟩
  | drw => exact ⟨.drw (opX op) (opY op) (opN op), fmtXyn_eq_of_family_mask 0xD h, rfl⟩
  | skp => exact ⟨.skp (opX op), fmtX_eq_of_mask 0xE 0x9E h, rfl⟩
  | sknp => exact ⟨.sknp (opX op), fmtX_eq_of_mask 0xE 0xA1 h, rfl⟩
  | ldVxDt => exact ⟨.ldVxDt (opX op), fmtX_eq_of_mask 0xF 0x07 h, rfl⟩
  | ldVxK => exact ⟨.ldVxK (opX op), fmtX_eq_of_mask 0xF 0x0A h, rfl⟩
  | ldDtVx => exact ⟨.ldDtVx (opX op), fmtX_eq_of_mask 0xF 0x15 h, rfl⟩
  | ldStVx => exact ⟨.ldStVx (opX op), fmtX_eq_of_mask 0xF 0x18 h, rfl⟩
  | addIVx => exact ⟨.addIVx (opX op), fmtX_eq_of_mask 0xF 0x1E h, rfl⟩
  | ldFVx => exact ⟨.ldFVx (opX op), fmtX_eq_of_mask 0xF 0x29 h, rfl⟩
  | ldBVx => exact ⟨.ldBVx (opX op), fmtX_eq_of_mask 0xF 0x33 h, rfl⟩
  | ldMiVx => exact ⟨.ldMiVx (opX op), fmtX_eq_of_mask 0xF 0x55 h, rfl⟩
  | ldVxMi => exact ⟨.ldVxMi (opX op), fmtX_eq_of_mask 0xF 0x65 h, rfl⟩

/-- An instruction of every row, in the order of R110. -/
def rowSamples : List Instr := [
  .cls, .ret, .jp 0, .call 0, .seVxNn 0 0, .sneVxNn 0 0, .seVxVy 0 0, .ldVxNn 0 0, .addVxNn 0 0, .ldVxVy 0 0, .or 0 0, .and 0 0,
  .xor 0 0, .addVxVy 0 0, .sub 0 0, .shr 0 0, .subn 0 0, .shl 0 0, .sneVxVy 0 0, .ldI 0, .jpV0 0, .rnd 0 0, .drw 0 0 0, .skp 0,
  .sknp 0, .ldVxDt 0, .ldVxK 0, .ldDtVx 0, .ldStVx 0, .addIVx 0, .ldFVx 0, .ldBVx 0, .ldMiVx 0, .ldVxMi 0]

/-- The table is the list of the instructions' rows. -/
theorem opcodeTable_eq_map : opcodeTable = rowSamples.map rowOf := rfl

/-- A word that selects a row of the table decodes to an instruction of that row. -/
theorem decode_of_selects {r : OpcodeRow} {op : Word} (hr : r ∈ opcodeTable) (h : r.selects op) :
    ∃ i, decode op = .ok i ∧ rowOf i = r := by
  rw [opcodeTable_eq_map] at hr
  obtain ⟨i, -, rfl⟩ := List.mem_map.mp hr
  obtain ⟨j, rfl, hj⟩ := exists_encode_of_selects h
  exact ⟨j, decode_encode j, hj⟩

/-- A word that selects no row of the table is rejected. -/
theorem decode_of_selects_none {op : Word} (h : ∀ r ∈ opcodeTable, ¬r.selects op) : decode op = .error .unknownOpcode := by
  cases hd : decode op with
  | error e => rw [decode_error hd]
  | ok i =>
    have hselects := rowOf_selects_encode i
    rw [encode_of_decode hd] at hselects
    exact absurd hselects (h _ (rowOf_mem i))

/-- Settles O1: the fields of each format are the operands the word was built from. -/
theorem decodeOfEncodeIsTheInstruction : Obligations.DecodeOfEncodeIsTheInstruction :=
  fun i _ => decode_encode i

/-- Settles O2: each arm of the decoder keeps every field of the word. -/
theorem encodeOfDecodeIsTheWord : Obligations.EncodeOfDecodeIsTheWord :=
  fun _ _ h => encode_of_decode h

/-- Settles O3: a word that decodes selects its instruction's row, and a word that selects a row is the word of an instruction of
that row. -/
theorem decodeFollowsTheDispatchTable : Obligations.DecodeFollowsTheDispatchTable :=
  fun _ => ⟨decode_of_selects_none, fun _ hr h => decode_of_selects hr h⟩

/-- Settles O4: the instruction the word decodes to belongs to both rows. -/
theorem noWordMatchesTwoRows : Obligations.NoWordMatchesTwoRows := by
  intro op r hr q hq hrop hqop
  obtain ⟨i, hi, rfl⟩ := decode_of_selects hr hrop
  obtain ⟨j, hj, rfl⟩ := decode_of_selects hq hqop
  rw [hi] at hj
  cases hj
  rfl

/-- Settles O5: eighteen fixed words, evaluated. -/
theorem exampleWordsDecode : Obligations.ExampleWordsDecode := by
  unfold Obligations.ExampleWordsDecode
  decide

end Sys2Proof.Proofs

/-!
PROOFS. One instruction of a batch and the end of a call (spec/40_engine.md section 1, spec/60_exceptions.md sections 1 and 4).
-/

namespace Sys2Proof.Proofs

open Sys2Proof.Machine

/-- A state is in its own frame, whatever may be written. -/
theorem kept_refl (written : List Part) (s : State) : Kept written s s := by
  constructor <;> simp

/-- The word a fetch reads: the byte at `PC`, then the byte after it (R136). -/
theorem fetchWord_eq (s : State) : fetchWord s = readMem s.pc s ++ readMem (s.pc + 1) s := rfl

/-- Advancing the program counter past an instruction (R137). -/
theorem advancePc_eq (s : State) : advancePc s = { s with pc := s.pc + 2 } := rfl

/-- After the advance, the address of the instruction is where the program counter was (R37). -/
@[simp] theorem ipcOf_advancePc (s : State) : ipcOf (advancePc s) = s.pc := BitVec.add_sub_cancel s.pc 2

/-- In a batch that goes on, a step is one instruction (R130). -/
theorem step_inBatch {count : Nat} {s : State} (h : InBatch count s) : step s = instrStep count s := by
  simp only [step, h.phase, callStep, (batchGoesOn_iff count s).mpr ⟨h.run, h.slots⟩, if_true]

/-- In a batch that does not go on, a step is the end of the call (R130). -/
theorem step_batchOver {count : Nat} {s : State} (hp : s.phase = .inCall count) (hb : batchGoesOn count s = false) :
    step s = .next (finishCycle s) := by
  simp only [step, hp, callStep, hb, Bool.false_eq_true, if_false]

/-- A word that decodes is executed with `PC` advanced (R135). -/
theorem runInstr_of_decode {i : Instr} {s : State} (h : decode (fetchWord s) = .ok i) : runInstr s = exec i (advancePc s) := by
  rw [runInstr, h]

/-- A word that does not decode is a fatal error (R138). -/
theorem runInstr_of_decode_error {e : DecodeReject} {s : State} (h : decode (fetchWord s) = .error e) :
    runInstr s = .next (raiseFault .unknownOpcode s.pc (fetchWord s) (advancePc s)) := by
  rw [runInstr, h]

/-- What follows an instruction changes the control state alone (R134, R141). -/
theorem endInstr_eq (count : Nat) (t : State) :
    endInstr count t = { t with phase := if t.run = .halted then .idle else .inCall (count + 1) } := by
  unfold endInstr
  split <;> rfl

/-- An instruction that takes a fatal error ends the call, and no timer ticks (R134). -/
theorem step_of_raiseFault {count : Nat} {s : State} {cause : Cause} {op : Word} (h : InBatch count s)
    (hrun : runInstr s = .next (raiseFault cause s.pc op (advancePc s))) :
    step s = .next { s with
      pc := s.pc + 2, faultCode := cause, faultPc := s.pc, faultOp := op, run := .halted, soundGate := false, phase := .idle } := by
  rw [step_inBatch h, instrStep, hrun]
  rfl

/-- RET on the empty stack takes the fatal error of an underflow (R161). -/
theorem exec_ret_underflow {s : State} (h : s.sp = 0) :
    exec .ret s = .next (raiseFault .stackUnderflow (ipcOf s) 0x00EE s) := by
  simp only [exec, execRet, pop_underflow h, stackStop, encode, BitVec.ofNat_eq_ofNat]

/-- CALL on the full stack takes the fatal error of an overflow (R163). -/
theorem exec_call_overflow {s : State} (nnn : Addr) (h : s.cfg.stackDepth ≤ s.sp) :
    exec (.call nnn) s = .next (raiseFault .stackOverflow (ipcOf s) (0x2#4 ++ nnn) s) := by
  simp only [exec, execCall, push_overflow s.pc h, stackStop]
  rfl

/-- The end of a call that is not halted: both timers tick, then the gate is set (R320, R321). -/
theorem finishCycle_of_not_halted {s : State} (h : s.run ≠ .halted) :
    finishCycle s = { s with
      dt := tickDown s.dt, st := tickDown s.st, soundGate := decide (0 < s.st.toNat - 1), phase := .idle } := by
  rw [finishCycle, if_neg h, ← tickDown_toNat, ← gate_eq]
  rfl

/-- Settles O6: the fetch reads the two bytes at `PC`, and what follows the instruction sets the control state alone. -/
theorem stepRunsTheDecodedInstruction : Obligations.StepRunsTheDecodedInstruction := by
  intro s count i hbatch _ hdecode
  rw [← fetchWord_eq] at hdecode
  rw [step_inBatch hbatch, instrStep, runInstr_of_decode hdecode, advancePc_eq]
  cases exec i { s with pc := s.pc + 2 } with
  | next t => exact congrArg _ (endInstr_eq count t)
  | fault r => rfl
  | refused r => rfl

/-- Settles O7: such a word is rejected, and the instruction is the fatal error. -/
theorem unknownWordHaltsTheMachine : Obligations.UnknownWordHaltsTheMachine := by
  intro s count hbatch hnone
  exact step_of_raiseFault hbatch (runInstr_of_decode_error (decode_of_selects_none hnone))

/-- Settles O13: the word is RET, which underflows on the empty stack. -/
theorem returnOnEmptyStackHalts : Obligations.ReturnOnEmptyStackHalts := by
  intro s count hbatch hword hsp
  have hdecode : decode (fetchWord s) = .ok .ret := by
    rw [fetchWord_eq, hword]
    exact decode_encode .ret
  refine step_of_raiseFault hbatch ?_
  rw [runInstr_of_decode hdecode, exec_ret_underflow (s := advancePc s) hsp, ipcOf_advancePc]

/-- Settles O14: the word is CALL, which overflows on the full stack. -/
theorem callOnFullStackHalts : Obligations.CallOnFullStackHalts := by
  intro s count nnn hbatch hword hsp
  have hdecode : decode (fetchWord s) = .ok (.call nnn) := by
    rw [fetchWord_eq, hword]
    exact decode_encode (.call nnn)
  refine step_of_raiseFault hbatch ?_
  rw [runInstr_of_decode hdecode, exec_call_overflow (s := advancePc s) nnn hsp.ge, ipcOf_advancePc]

/-- Settles O8: the step is the end of the call, which ticks both timers. -/
theorem endOfCycleTicksTheTimers : Obligations.EndOfCycleTicksTheTimers := by
  intro s count hphase hrun hover
  have hb : batchGoesOn count s = false := decide_eq_false hover
  refine ⟨finishCycle s, step_batchOver hphase hb, ?_⟩
  rw [finishCycle_of_not_halted hrun]
  exact ⟨tickDown_toNat s.dt, tickDown_toNat s.st, rfl, kept_refl [] _⟩

end Sys2Proof.Proofs

/-!
PROOFS. The invariant (spec/10_state.md, spec/40_engine.md section 1, spec/60_exceptions.md section 1): inside a call it says that
the machine is alive with legal data; every kind of step keeps it.
-/

namespace Sys2Proof.Proofs

open Sys2Proof.Machine

/-- The part of the invariant that speaks of data alone: memory, parameters and stack (R9, R38, R70). -/
structure DataInv (s : State) : Prop where
  memory : s.mem.wf
  params : s.cfg.wf = true
  slots : s.stack.length = s.cfg.stackDepth
  depth : s.sp ≤ s.cfg.stackDepth

/-- What the invariant says inside a call that has run `count` instructions: the call is under way within its slots, and the machine
is alive, with no fault recorded (R130, R133, R134). -/
structure CallInv (count : Nat) (s : State) : Prop extends DataInv s where
  phase : s.phase = .inCall count
  started : s.started = true
  slotsUsed : count ≤ s.cfg.speed
  alive : s.run ≠ .halted
  noFault : s.faultCode = .none
  blank : s.faultPc = 0 ∧ s.faultOp = 0

theorem inv_data {s : State} (h : s.Inv) : DataInv s := ⟨h.memory, h.params, h.slots, h.depth⟩

/-- Alive, the machine has no fault recorded, and the record is blank (R301). -/
theorem inv_noFault {s : State} (h : s.Inv) (halive : s.run ≠ .halted) :
    s.faultCode = .none ∧ s.faultPc = 0 ∧ s.faultOp = 0 := by
  have hnone : s.faultCode = .none := by
    by_contra hc
    exact halive (h.recorded.mpr hc)
  exact ⟨hnone, h.blank (.inl hnone)⟩

theorem callInv_of_inv {count : Nat} {s : State} (h : s.Inv) (hp : s.phase = .inCall count) : CallInv count s := by
  obtain ⟨hstarted, hslots⟩ := h.call count hp
  have halive : s.run ≠ .halted := by
    intro hr
    have hidle := (h.halted hr).1
    rw [hp] at hidle
    cases hidle
  obtain ⟨hnone, hblank⟩ := inv_noFault h halive
  exact ⟨inv_data h, hp, hstarted, hslots, halive, hnone, hblank⟩

theorem inv_of_callInv {count : Nat} {s : State} (h : CallInv count s) : s.Inv where
  memory := h.memory
  params := h.params
  slots := h.slots
  depth := h.depth
  recorded := iff_of_false h.alive (not_not_intro h.noFault)
  halted hr := absurd hr h.alive
  blank _ := h.blank
  call n hn := by
    rw [h.phase] at hn
    cases hn
    exact ⟨h.started, h.slotsUsed⟩
  gate hidle := by
    rw [h.phase] at hidle
    cases hidle
  fresh hs := by
    rw [h.started] at hs
    cases hs

/-! ## Instructions -/

/-- A fatal error of an instruction halts the machine between calls, with its cause recorded and the gate off (R302, R322). -/
theorem inv_raiseFault {s : State} {cause : Cause} (ipc : Addr) (op : Word) (h : DataInv s) (hs : s.started = true)
    (hnone : cause ≠ .none) (hload : cause ≠ .programTooLarge) : (setPhase .idle (raiseFault cause ipc op s)).Inv where
  memory := h.memory
  params := h.params
  slots := h.slots
  depth := h.depth
  recorded := iff_of_true rfl hnone
  halted _ := ⟨rfl, rfl⟩
  blank hc := absurd hc (not_or.mpr ⟨hnone, hload⟩)
  call _ hp := by cases hp
  gate _ hr := absurd rfl hr
  fresh hf := absurd (hs.symm.trans hf) Bool.true_eq_false.mp

theorem advancePc_callInv {count : Nat} {s : State} (h : CallInv count s) : CallInv count (advancePc s) :=
  ⟨⟨h.memory, h.params, h.slots, h.depth⟩, h.phase, h.started, h.slotsUsed, h.alive, h.noFault, h.blank⟩

/-- After an instruction that leaves the machine alive, the call goes on with one more instruction run (R134). -/
theorem endInstr_of_alive {count : Nat} {s : State} (h : s.run ≠ .halted) : endInstr count s = setPhase (.inCall (count + 1)) s :=
  if_neg h

theorem inv_endInstr_of_callInv {count : Nat} {s : State} (h : CallInv (count + 1) (setPhase (.inCall (count + 1)) s)) :
    (endInstr count s).Inv := by
  rw [endInstr_of_alive (s := s) h.alive]
  exact inv_of_callInv h

/-- An instruction of a batch keeps the invariant: it writes program state, or waits, or takes a stack error. -/
theorem inv_exec {count : Nat} {i : Instr} {s t : State} (h : CallInv count s) (hslot : count < s.cfg.speed)
    (he : exec i s = .next t) : (endInstr count t).Inv := by
  rcases exec_cases he with
    ⟨v, m, idx, pc, sp, stack, dt, st, fb, bytes, fresh, rfl, -, hmem, -, hstack, -⟩ | ⟨x, -, rfl⟩ | ⟨-, -, rfl⟩ | ⟨nnn, -, -, rfl⟩
  · have hdata : stack.length = s.cfg.stackDepth ∧ sp ≤ s.cfg.stackDepth := by
      rcases hstack with ⟨rfl, rfl⟩ | ⟨-, hlength, hdepth⟩
      · exact ⟨h.slots, h.depth⟩
      · exact ⟨hlength.trans h.slots, hdepth h.depth⟩
    exact inv_endInstr_of_callInv
      ⟨⟨hmem h.memory, h.params, hdata.1, hdata.2⟩, rfl, h.started, hslot, h.alive, h.noFault, h.blank⟩
  · exact inv_endInstr_of_callInv
      ⟨⟨h.memory, h.params, h.slots, h.depth⟩, rfl, h.started, hslot, nofun, h.noFault, h.blank⟩
  · exact inv_raiseFault _ _ h.toDataInv h.started (by decide) (by decide)
  · exact inv_raiseFault _ _ h.toDataInv h.started (by decide) (by decide)

theorem inv_runInstr {count : Nat} {s t : State} (h : CallInv count s) (hslot : count < s.cfg.speed)
    (hr : runInstr s = .next t) : (endInstr count t).Inv := by
  rcases runInstr_cases hr with ⟨i, -, he⟩ | ⟨e, -, rfl⟩
  · exact inv_exec (advancePc_callInv h) hslot he
  · exact inv_raiseFault _ _ (advancePc_callInv h).toDataInv h.started (by decide) (by decide)

/-- The end of a call keeps the invariant: the gate is set from `ST` (R321). -/
theorem inv_finishCycle {count : Nat} {s : State} (h : CallInv count s) : (finishCycle s).Inv := by
  rw [finishCycle_of_not_halted h.alive]
  exact {
    memory := h.memory
    params := h.params
    slots := h.slots
    depth := h.depth
    recorded := iff_of_false h.alive (not_not_intro h.noFault)
    halted := fun hr => absurd hr h.alive
    blank := fun _ => h.blank
    call := fun _ hp => by cases hp
    gate := fun _ _ => by simp only [tickDown_toNat]
    fresh := fun hf => absurd (h.started.symm.trans hf) Bool.true_eq_false.mp }

/-! ## Host calls -/

/-- The invariant does not speak of what the host has lined up. -/
theorem inv_hostSide {s : State} (h : s.Inv) (calls : List HostCall) (fresh : Nat) :
    State.Inv { s with hostCalls := calls, fresh := fresh } :=
  ⟨h.memory, h.params, h.slots, h.depth, h.recorded, h.halted, h.blank, h.call, h.gate, h.fresh⟩

theorem inv_setMem {s : State} {m : Memory} (h : s.Inv) (hm : m.wf) : State.Inv { s with mem := m } :=
  ⟨hm, h.params, h.slots, h.depth, h.recorded, h.halted, h.blank, h.call, h.gate, h.fresh⟩

/-- A reset gives a state with the invariant, whatever was before it (R340). -/
theorem inv_restart {s : State} (speed : Nat) (hparams : s.cfg.wf = true) : (restart speed s).Inv where
  memory := reset_mem_wf
  params := hparams
  slots := List.length_replicate
  depth := Nat.zero_le _
  recorded := iff_of_false nofun (not_not_intro rfl)
  halted hr := nomatch hr
  blank _ := ⟨rfl, rfl⟩
  call _ hp := nomatch hp
  gate _ _ := rfl
  fresh _ := ⟨rfl, rfl, nofun, .inl rfl⟩

/-- A program that is too large halts the machine before its first call, with the record left blank (R82). -/
theorem inv_failLoad {s : State} (h : s.Inv) (hidle : s.phase = .idle) (hs : s.started = false) : (failLoad s).Inv := by
  obtain ⟨hst, hgate, -, hcause⟩ := h.fresh hs
  exact {
    memory := h.memory
    params := h.params
    slots := h.slots
    depth := h.depth
    recorded := iff_of_true rfl nofun
    halted := fun _ => ⟨hidle, hgate⟩
    blank := fun _ => h.blank hcause
    call := h.call
    gate := fun _ hr => absurd rfl hr
    fresh := fun _ => ⟨hst, hgate, nofun, .inr rfl⟩ }

theorem inv_loadProgram {s : State} (bytes : List Byte) (h : s.Inv) (hidle : s.phase = .idle) (hs : s.started = false) :
    (loadProgram bytes s).Inv := by
  rcases loadProgram_cases bytes s with ⟨m, hm, hwf⟩ | hfail
  · rw [hm]
    exact inv_setMem h (hwf h.memory)
  · rw [hfail]
    exact inv_failLoad h hidle hs

theorem inv_loadFont {s : State} (h : s.Inv) : (loadFont s).Inv := by
  obtain ⟨m, hm, hwf⟩ := loadFont_eq s
  rw [hm]
  exact inv_setMem h (hwf h.memory)

/-- A call that finds the machine alive enters its batch with no instruction run (R130). -/
theorem enterCycle_callInv {s : State} (keys : BitVec 16) (h : s.Inv) (halive : s.run ≠ .halted) :
    CallInv 0 (enterCycle keys s) := by
  obtain ⟨hnone, hblank⟩ := inv_noFault h halive
  exact ⟨⟨h.memory, h.params, h.slots, h.depth⟩, rfl, rfl, Nat.zero_le _, halive, hnone, hblank⟩

theorem resolveWait_callInv {count : Nat} {s : State} (edges : BitVec 16) (h : CallInv count s) :
    CallInv count (resolveWait edges s) := by
  rcases resolveWait_cases edges s with ⟨-, hsame⟩ | ⟨k, -, hresolved⟩
  · rw [hsame]
    exact h
  · rw [hresolved]
    exact ⟨⟨h.memory, h.params, h.slots, h.depth⟩, h.phase, h.started, h.slotsUsed, nofun, h.noFault, h.blank⟩

theorem inv_beginCycle {s : State} (keys edges : BitVec 16) (h : s.Inv) : (beginCycle keys edges s).Inv := by
  rcases beginCycle_cases keys edges s with ⟨-, hb⟩ | ⟨hrun, hb⟩ | ⟨hrun, hb⟩
  · rw [hb]
    exact h
  · rw [hb]
    exact inv_of_callInv (enterCycle_callInv keys h (by simp [hrun]))
  · rw [hb]
    exact inv_of_callInv (resolveWait_callInv edges (enterCycle_callInv keys h (by simp [hrun])))

theorem inv_hostCall {c : HostCall} {s t : State} (h : s.Inv) (hidle : s.phase = .idle) (hc : hostCall c s = .next t) : t.Inv := by
  rcases hostCall_cases hc with ⟨speed, -, rfl⟩ | ⟨-, -, rfl⟩ | ⟨bytes, -, hs, rfl⟩ | ⟨keys, edges, -, rfl⟩
  · exact inv_restart speed h.params
  · exact inv_loadFont h
  · exact inv_loadProgram bytes h hidle hs
  · exact inv_beginCycle keys edges h

/-- Settles O57: a step is a host call, an instruction of a batch, or the end of a call, and each keeps the invariant. -/
theorem stepKeepsTheInvariant : Obligations.StepKeepsTheInvariant := by
  intro s t h hstep
  rcases step_cases hstep with ⟨hidle, hc⟩ | ⟨n, u, hp, -, hslot, hrun, rfl⟩ | ⟨n, hp, -, rfl⟩
  · obtain ⟨calls, fresh, hnext⟩ := nextCall_eq s
    rw [hnext] at hc
    exact inv_hostCall (inv_hostSide h calls fresh) hidle hc
  · exact inv_runInstr (callInv_of_inv h hp) hslot hrun
  · exact inv_finishCycle (callInv_of_inv h hp)

/-- Settles O56: the reset state is a reset of itself with its own `SPEED`. -/
theorem invariantHoldsAtReset : Obligations.InvariantHoldsAtReset :=
  inv_restart (s := State.reset) 10 rfl

/-! ## Progress -/

/-- With the stack's slots all there, one instruction always answers (R38, R138). -/
theorem runInstr_answers {s : State} (h : DataInv s) : ∃ t, runInstr s = .next t := by
  cases hd : decode (fetchWord s) with
  | ok i =>
    rw [runInstr_of_decode hd]
    exact exec_answers i (s := advancePc s) h.slots h.depth
  | error e => exact ⟨_, runInstr_of_decode_error hd⟩

theorem callStep_answers (count : Nat) {s : State} (h : DataInv s) : ∃ t, callStep count s = .next t := by
  unfold callStep
  split
  · obtain ⟨t, ht⟩ := runInstr_answers h
    exact ⟨endInstr count t, by rw [instrStep, ht]⟩
  · exact ⟨_, rfl⟩

/-- A host call answers, unless it is a load after the first `cycle` (R84). -/
theorem hostCall_answers (c : HostCall) (s : State) :
    (∃ t, hostCall c s = .next t) ∨
      (hostCall c s = .refused .loadAfterStart ∧ s.started = true ∧ (c = .loadFont ∨ ∃ bytes, c = .loadProgram bytes)) := by
  cases c with
  | reset speed => exact .inl ⟨_, rfl⟩
  | cycle keys edges => exact .inl ⟨_, rfl⟩
  | loadFont =>
    cases hs : s.started with
    | false => exact .inl ⟨loadFont s, by simp [hostCall, hs]⟩
    | true => exact .inr ⟨by simp [hostCall, hs], rfl, .inl rfl⟩
  | loadProgram bytes =>
    cases hs : s.started with
    | false => exact .inl ⟨loadProgram bytes s, by simp [hostCall, hs]⟩
    | true => exact .inr ⟨by simp [hostCall, hs], rfl, .inr ⟨bytes, rfl⟩⟩

/-- Settles O58: inside a call every step answers, because the stack's slots are there; between calls only a late load is refused. -/
theorem noStepFaultsUnderTheInvariant : Obligations.NoStepFaultsUnderTheInvariant := by
  intro s h
  cases hp : s.phase with
  | idle =>
    obtain ⟨calls, fresh, hnext⟩ := nextCall_eq s
    have hstep : step s = hostCall (nextCall s).1 (nextCall s).2 := by rw [step, hp, idleStep]
    rcases hostCall_answers (nextCall s).1 (nextCall s).2 with hanswer | ⟨hrefused, hstarted, hload⟩
    · exact .inl (hstep ▸ hanswer)
    · rw [hnext] at hstarted
      exact .inr ⟨hstep.trans hrefused, rfl, hstarted, hload⟩
  | inCall count =>
    obtain ⟨t, ht⟩ := callStep_answers count (inv_data h)
    exact .inl ⟨t, by rw [step, hp]; exact ht⟩

end Sys2Proof.Proofs

/-!
PROOFS. The call stack (spec/41_flow.md, spec/10_state.md section 5): how RET and CALL end, by what the stack holds.
-/

namespace Sys2Proof.Proofs

open Sys2Proof.Machine

/-- RET pops the top entry into the program counter (R161). -/
theorem exec_ret_of_slot {s : State} {a : Addr} (h0 : s.sp ≠ 0) (hslot : s.stack[s.sp - 1]? = some a) :
    exec .ret s = .next (setPc a (setStack s.stack (s.sp - 1) s)) := by
  simp only [exec, execRet, pop_ok.mpr ⟨h0, hslot, rfl⟩]

/-- RET faults when the top slot does not exist: only outside the invariant. -/
theorem exec_ret_of_no_slot {s : State} (h0 : s.sp ≠ 0) (hslot : s.stack[s.sp - 1]? = none) :
    exec .ret s = .fault .stackSlotMissing := by
  simp only [exec, execRet, pop, if_neg h0, hslot, stackStop]

/-- CALL pushes the program counter and jumps (R163). -/
theorem exec_call_of_slot {s : State} (nnn : Addr) (hroom : s.sp < s.cfg.stackDepth) (hslot : s.sp < s.stack.length) :
    exec (.call nnn) s = .next (setPc nnn (setStack (s.stack.set s.sp s.pc) (s.sp + 1) s)) := by
  simp only [exec, execCall, push_ok.mpr ⟨hroom, hslot, rfl⟩]

/-- CALL faults when the free slot does not exist: only outside the invariant. -/
theorem exec_call_of_no_slot {s : State} (nnn : Addr) (hroom : s.sp < s.cfg.stackDepth) (hslot : s.stack.length ≤ s.sp) :
    exec (.call nnn) s = .fault .stackSlotMissing := by
  simp only [exec, execCall, push, if_neg (Nat.not_le.mpr hroom), if_pos hslot, stackStop]

/-- Moving the program counter and the stack keeps every other part. -/
theorem setPc_setStack_kept (a : Addr) (stack : List Addr) (sp : Nat) (s : State) :
    Kept [.pc, .stack] s (setPc a (setStack stack sp s)) := by
  constructor <;> simp

/-- A frame in which the program counter may be written, and is not, is a frame without it. -/
theorem kept_stack_of_pc_eq {s t : State} (h : Kept [.pc, .stack] s t) (hpc : t.pc = s.pc) : Kept [.stack] s t where
  regs _ := h.regs (by decide)
  index _ := h.index (by decide)
  pc _ := hpc
  stack hs := absurd (List.mem_singleton.mpr rfl) hs
  delay _ := h.delay (by decide)
  sound _ := h.sound (by decide)
  screen _ := h.screen (by decide)
  memory _ := h.memory (by decide)
  runState _ := h.runState (by decide)
  faultRecord _ := h.faultRecord (by decide)
  random _ := h.random (by decide)
  rest := h.rest

/-- What JP V0 does: it moves the program counter to a sum (R164). -/
theorem exec_jpV0 (nnn : Addr) (s : State) : exec (.jpV0 nnn) s = .next (setPc (nnn + zext12 (readV 0 s)) s) := rfl

/-- Settles O11: the slot below `SP` exists, and RET pops it. -/
theorem returnPopsTheReturnAddress : Obligations.ReturnPopsTheReturnAddress := by
  intro s hpos hle
  have hslot : s.stack[s.sp - 1]? = some s.stack[s.sp - 1] := List.getElem?_eq_getElem (by omega)
  exact ⟨_, exec_ret_of_slot (by omega) hslot, hslot, rfl, rfl, setPc_setStack_kept _ _ _ s⟩

/-- Settles O12: the slot at `SP` exists, and CALL writes it alone. -/
theorem callPushesTheAdvancedPc : Obligations.CallPushesTheAdvancedPc := by
  intro s nnn hroom hlength
  have hslot : s.sp < s.stack.length := by omega
  refine ⟨_, exec_call_of_slot nnn hroom hslot, rfl, rfl, ?pushed, fun k hk => ?others, setPc_setStack_kept _ _ _ s⟩
  case pushed => exact List.getElem?_set_self hslot
  case others => exact List.getElem?_set_ne hk.symm

/-- Settles O15: RET pops the very slot that CALL has written. -/
theorem callThenReturnComesBack : Obligations.CallThenReturnComesBack := by
  intro s nnn p hroom hlength
  have hslot : s.sp < s.stack.length := by omega
  let t := setPc nnn (setStack (s.stack.set s.sp s.pc) (s.sp + 1) s)
  have htop : ({ t with pc := p } : State).stack[t.sp - 1]? = some s.pc := List.getElem?_set_self hslot
  refine ⟨t, _, exec_call_of_slot nnn hroom hslot, exec_ret_of_slot (Nat.succ_ne_zero _) htop, rfl, rfl, ?_⟩
  exact kept_stack_of_pc_eq (setPc_setStack_kept s.pc t.stack s.sp s) rfl

/-- Settles O17: a sum of addresses is a sum mod 4096. -/
theorem jumpWithOffsetAddsV0 : Obligations.JumpWithOffsetAddsV0 := by
  intro s nnn
  refine ⟨setPc (nnn + zext12 (readV 0 s)) s, exec_jpV0 nnn s, ?_, setPc_kept _ s⟩
  rw [setPc_pc, BitVec.toNat_add, zext12_toNat]

end Sys2Proof.Proofs

/-!
PROOFS. What instructions neither read nor write (spec/10_state.md sections 6, 10, 11 and 12): a change of the timers, the keys and the
host's side before an instruction is the same change after it.
-/

namespace Sys2Proof.Proofs

open Sys2Proof.Machine

/-- The fields beside the program's own: the timers, the keys, and the host's side. -/
structure Aside where
  dt : Byte
  st : Byte
  keys : BitVec 16
  started : Bool
  phase : Phase
  hostCalls : List HostCall

def asideOf (s : State) : Aside := ⟨s.dt, s.st, s.keys, s.started, s.phase, s.hostCalls⟩

/-- A state with these fields changed by `f`. -/
def changeAside (f : Aside → Aside) (s : State) : State :=
  { s with
    dt := (f (asideOf s)).dt, st := (f (asideOf s)).st, keys := (f (asideOf s)).keys, started := (f (asideOf s)).started,
    phase := (f (asideOf s)).phase, hostCalls := (f (asideOf s)).hostCalls }

/-! ## The shared operations -/

section Commutes

variable (f : Aside → Aside) (s : State)

theorem skipIf_changeAside (c : Bool) : skipIf c (changeAside f s) = changeAside f (skipIf c s) := by
  cases c <;> rfl

theorem draw_changeAside : draw (changeAside f s) = ((draw s).1, changeAside f (draw s).2) := by
  rcases draw_cases s with ⟨b, rest, hbytes, hd⟩ | ⟨hbytes, hd⟩
  · rw [hd, draw, show (changeAside f s).randomBytes = b :: rest from hbytes]
    rfl
  · rw [hd, draw, show (changeAside f s).randomBytes = [] from hbytes]
    rfl

theorem drawBit_changeAside (px py : Nat) : drawBit px py (changeAside f s) = changeAside f (drawBit px py s) := by
  have hpixel : (toggle px py (changeAside f s)).1 = (toggle px py s).1 := rfl
  unfold drawBit
  rw [hpixel]
  split <;> rfl

theorem drawRow_changeAside (byte : Byte) (px py : Nat) :
    drawRow byte px py (changeAside f s) = changeAside f (drawRow byte px py s) := by
  refine List.foldl_hom (changeAside f) fun t col => ?_
  split
  · exact drawBit_changeAside f t _ _
  · rfl

theorem drawRows_changeAside (rows : List Nat) (px py : Nat) :
    drawRows rows px py (changeAside f s) = changeAside f (drawRows rows px py s) :=
  List.foldl_hom (changeAside f) fun t _ => drawRow_changeAside f t _ _ _

theorem storeRegs_changeAside (ks : List Nat) : storeRegs ks (changeAside f s) = changeAside f (storeRegs ks s) :=
  List.foldl_hom (changeAside f) fun _ _ => rfl

theorem loadRegs_changeAside (ks : List Nat) : loadRegs ks (changeAside f s) = changeAside f (loadRegs ks s) :=
  List.foldl_hom (changeAside f) fun _ _ => rfl

theorem exec_ret_changeAside : exec .ret (changeAside f s) = mapNext (changeAside f) (exec .ret s) := by
  by_cases h0 : s.sp = 0
  · rw [exec_ret_underflow h0, exec_ret_underflow (s := changeAside f s) h0]
    rfl
  · cases hslot : s.stack[s.sp - 1]? with
    | some a =>
      rw [exec_ret_of_slot h0 hslot, exec_ret_of_slot (s := changeAside f s) h0 hslot]
      rfl
    | none =>
      rw [exec_ret_of_no_slot h0 hslot, exec_ret_of_no_slot (s := changeAside f s) h0 hslot]
      rfl

theorem exec_call_changeAside (nnn : Addr) : exec (.call nnn) (changeAside f s) = mapNext (changeAside f) (exec (.call nnn) s) := by
  rcases Nat.lt_or_ge s.sp s.cfg.stackDepth with hroom | hfull
  · rcases Nat.lt_or_ge s.sp s.stack.length with hslot | hslot
    · rw [exec_call_of_slot nnn hroom hslot, exec_call_of_slot (s := changeAside f s) nnn hroom hslot]
      rfl
    · rw [exec_call_of_no_slot nnn hroom hslot, exec_call_of_no_slot (s := changeAside f s) nnn hroom hslot]
      rfl
  · rw [exec_call_overflow nnn hfull, exec_call_overflow (s := changeAside f s) nnn hfull]
    rfl

/-! ## The fields beside the program's own -/

variable {f}

/-- A change that keeps the keys leaves every key as it was. -/
theorem keyPressed_changeAside (h : ∀ a, (f a).keys = a.keys) (k : Reg) : keyPressed k (changeAside f s) = keyPressed k s :=
  congrArg (fun keys : BitVec 16 => keys.getLsbD k.toNat) (h (asideOf s))

theorem setDt_changeAside (h : ∀ a b, f { a with dt := b } = { f a with dt := b }) (b : Byte) :
    setDt b (changeAside f s) = changeAside f (setDt b s) := by
  have hf : f (asideOf (setDt b s)) = { f (asideOf s) with dt := b } := h (asideOf s) b
  simp only [changeAside, hf]
  rfl

theorem setSt_changeAside (h : ∀ a b, f { a with st := b } = { f a with st := b }) (b : Byte) :
    setSt b (changeAside f s) = changeAside f (setSt b s) := by
  have hf : f (asideOf (setSt b s)) = { f (asideOf s) with st := b } := h (asideOf s) b
  simp only [changeAside, hf]
  rfl

/-- A change that leaves `DT` out keeps it. -/
theorem changeAside_dt (h : ∀ a b, f { a with dt := b } = { f a with dt := b }) : (changeAside f s).dt = s.dt :=
  congrArg Aside.dt (h (asideOf s) s.dt)

/-! ## All instructions -/

/-- An instruction commutes with a change of the fields beside the program's, as long as it does not read the keys or the change keeps
them, does not touch `DT` or the change leaves `DT` out, and does not write `ST` or the change leaves `ST` out. -/
theorem exec_changeAside {i : Instr} (hkeys : (∀ x, i ≠ .skp x ∧ i ≠ .sknp x) ∨ ∀ a, (f a).keys = a.keys)
    (hdt : (∀ x, i ≠ .ldDtVx x ∧ i ≠ .ldVxDt x) ∨ ∀ a b, f { a with dt := b } = { f a with dt := b })
    (hst : (∀ x, i ≠ .ldStVx x) ∨ ∀ a b, f { a with st := b } = { f a with st := b }) :
    exec i (changeAside f s) = mapNext (changeAside f) (exec i s) := by
  cases i
  case skp x =>
    have hkept := keyPressed_changeAside s (hkeys.resolve_left fun h => (h x).1 rfl)
    simp only [exec, execSkp, hkept, skipIf_changeAside]
    rfl
  case sknp x =>
    have hkept := keyPressed_changeAside s (hkeys.resolve_left fun h => (h x).2 rfl)
    simp only [exec, execSknp, hkept, skipIf_changeAside]
    rfl
  case ldVxDt x =>
    have hkept := changeAside_dt s (hdt.resolve_left fun h => (h x).2 rfl)
    simp only [exec, execLdVxDt, hkept]
    rfl
  case ldDtVx x => exact congrArg Host.Outcome.next (setDt_changeAside s (hdt.resolve_left fun h => (h x).1 rfl) _)
  case ldStVx x => exact congrArg Host.Outcome.next (setSt_changeAside s (hst.resolve_left fun h => h x rfl) _)
  case seVxNn | sneVxNn | seVxVy | sneVxVy => exact congrArg Host.Outcome.next (skipIf_changeAside f s _)
  case rnd x nn =>
    simp only [exec, execRnd, draw_changeAside]
    rfl
  case drw x y n => exact congrArg Host.Outcome.next (drawRows_changeAside f (writeV vf (flagByte false) s) _ _ _)
  case ldMiVx x => exact congrArg Host.Outcome.next (storeRegs_changeAside f s _)
  case ldVxMi x => exact congrArg Host.Outcome.next (loadRegs_changeAside f s _)
  case ret => exact exec_ret_changeAside f s
  case call nnn => exact exec_call_changeAside f s nnn
  all_goals rfl

end Commutes

/-- Settles O20: setting the keys leaves the timers out. -/
theorem onlyKeySkipsReadTheKeys : Obligations.OnlyKeySkipsReadTheKeys := by
  intro i s keys hi
  exact exec_changeAside (f := fun a => { a with keys := keys }) s (.inl hi) (.inr fun _ _ => rfl) (.inr fun _ _ => rfl)

/-- Settles O40: setting one timer leaves the keys and the other timer out; `Fx18` overwrites the value set. -/
theorem onlyTimerInstructionsTouchTheTimers : Obligations.OnlyTimerInstructionsTouchTheTimers := by
  intro i s b
  refine ⟨fun hi => ?delay, fun hi => ?sound, ?overwritten⟩
  case delay =>
    exact exec_changeAside (f := fun a => { a with dt := b }) s (.inr fun _ => rfl) (.inl hi) (.inr fun _ _ => rfl)
  case sound =>
    exact exec_changeAside (f := fun a => { a with st := b }) s (.inr fun _ => rfl) (.inr fun _ _ => rfl) (.inl hi)
  case overwritten =>
    rintro ⟨x, rfl⟩
    rfl

/-- Settles O47: setting the host's side leaves the keys and the timers out. -/
theorem instructionsLeaveTheHostSideAlone : Obligations.InstructionsLeaveTheHostSideAlone := by
  intro i s started phase calls
  exact exec_changeAside (f := fun a => { a with started := started, phase := phase, hostCalls := calls }) s
    (.inr fun _ => rfl) (.inr fun _ _ => rfl) (.inr fun _ _ => rfl)

end Sys2Proof.Proofs

/-!
PROOFS. What changes what: the only writers of each part of the state among the instructions and among the steps (spec/10_state.md,
spec/40_engine.md section 3, spec/60_exceptions.md section 1).
-/

namespace Sys2Proof.Proofs

open Sys2Proof.Machine

/-! ## Instructions -/

/-- No instruction writes the configuration (R340). -/
theorem exec_cfg {i : Instr} {s t : State} (h : exec i s = .next t) : t.cfg = s.cfg := by
  rcases exec_cases h with ⟨v, m, idx, pc, sp, stack, dt, st, fb, bytes, fresh, rfl, -⟩ | ⟨x, -, rfl⟩ | ⟨-, -, rfl⟩ | ⟨nnn, -, -, rfl⟩
  all_goals rfl

/-- Among the instructions a timer has one writer (R40). -/
theorem exec_timers {i : Instr} {s t : State} (h : exec i s = .next t) :
    (t.dt = s.dt ∨ ∃ x, i = .ldDtVx x ∧ t.dt = readV x s) ∧ (t.st = s.st ∨ ∃ x, i = .ldStVx x ∧ t.st = readV x s) := by
  rcases exec_cases h with
    ⟨v, m, idx, pc, sp, stack, dt, st, fb, bytes, fresh, rfl, -, -, -, -, hdt, hst, -⟩ | ⟨x, -, rfl⟩ | ⟨-, -, rfl⟩ | ⟨nnn, -, -, rfl⟩
  · exact ⟨hdt, hst⟩
  all_goals exact ⟨.inl rfl, .inl rfl⟩

/-- Settles O37: in each of the four things an instruction can do, the framebuffer is kept or the instruction is CLS or DRW. -/
theorem onlyClearAndDrawWriteTheScreen : Obligations.OnlyClearAndDrawWriteTheScreen := by
  intro i s t h hcls hdrw
  rcases exec_cases h with
    ⟨v, m, idx, pc, sp, stack, dt, st, fb, bytes, fresh, rfl, -, -, -, -, -, -, hfb⟩ | ⟨x, -, rfl⟩ | ⟨-, -, rfl⟩ | ⟨nnn, -, -, rfl⟩
  · rcases hfb with hsame | rfl | ⟨x, y, n, rfl⟩
    · exact hsame
    · exact absurd rfl hcls
    · exact absurd rfl (hdrw x y n)
  all_goals rfl

/-- Settles O45: the four cases are the four things an instruction can do. -/
theorem onlyWaitAndStackFaultsStopTheBatch : Obligations.OnlyWaitAndStackFaultsStopTheBatch := by
  intro i s t h
  rcases exec_cases h with
    ⟨v, m, idx, pc, sp, stack, dt, st, fb, bytes, fresh, rfl, -⟩ | ⟨x, rfl, rfl⟩ | ⟨rfl, hsp, rfl⟩ | ⟨nnn, rfl, hsp, rfl⟩
  · exact .inl ⟨rfl, rfl, rfl, rfl, rfl⟩
  · exact .inr (.inl ⟨x, rfl, rfl⟩)
  · exact .inr (.inr (.inl ⟨rfl, hsp, rfl, rfl⟩))
  · exact .inr (.inr (.inr ⟨nnn, rfl, hsp, rfl, rfl⟩))

/-- Settles O46: in each of the four things an instruction can do, each of the three parts is kept or has its named writer. -/
theorem onlyNamedInstructionsWriteIndexMemoryStack : Obligations.OnlyNamedInstructionsWriteIndexMemoryStack := by
  intro i s t h
  rcases exec_cases h with
    ⟨v, m, idx, pc, sp, stack, dt, st, fb, bytes, fresh, rfl, hmem, -, hidx, hstack, -⟩ | ⟨x, -, rfl⟩ | ⟨-, -, rfl⟩ | ⟨nnn, -, -, rfl⟩
  · refine ⟨fun hldI hadd => ?index, fun hstore => ?memory, fun hret hcall => ?stack⟩
    case index =>
      rcases hidx with hsame | ⟨nnn, rfl⟩ | ⟨x, rfl | rfl⟩
      · exact hsame
      · exact absurd rfl (hldI nnn)
      · exact absurd rfl (hadd x).1
      · exact absurd rfl (hadd x).2
    case memory =>
      rcases hmem with hsame | ⟨x, rfl | rfl⟩
      · exact hsame
      · exact absurd rfl (hstore x).1
      · exact absurd rfl (hstore x).2
    case stack =>
      rcases hstack with hsame | ⟨rfl | ⟨nnn, rfl⟩, -⟩
      · exact hsame
      · exact absurd rfl hret
      · exact absurd rfl (hcall nnn)
  all_goals exact ⟨fun _ _ => rfl, fun _ => rfl, fun _ _ => ⟨rfl, rfl⟩⟩

/-! ## Steps -/

/-- The fetch and the dispatch write no configuration either. -/
theorem runInstr_cfg {s t : State} (h : runInstr s = .next t) : t.cfg = s.cfg := by
  rcases runInstr_cases h with ⟨i, -, he⟩ | ⟨e, -, rfl⟩
  · have hcfg := exec_cfg he
    exact hcfg
  · rfl

theorem finishCycle_cfg (s : State) : (finishCycle s).cfg = s.cfg := by
  unfold finishCycle
  split <;> rfl

theorem finishCycle_run (s : State) : (finishCycle s).run = s.run := by
  unfold finishCycle
  split <;> rfl

/-- The start of a call keeps the configuration and the timers, and a halted machine halted (R303). -/
theorem beginCycle_keeps (keys edges : BitVec 16) (s : State) :
    (beginCycle keys edges s).cfg = s.cfg ∧ (beginCycle keys edges s).dt = s.dt ∧ (beginCycle keys edges s).st = s.st ∧
      (s.run = .halted → (beginCycle keys edges s).run = .halted) := by
  rcases beginCycle_cases keys edges s with ⟨hrun, hb⟩ | ⟨hrun, hb⟩ | ⟨hrun, hb⟩
  · rw [hb]
    exact ⟨rfl, rfl, rfl, id⟩
  · rw [hb]
    exact ⟨rfl, rfl, rfl, id⟩
  · rcases resolveWait_cases edges (enterCycle keys s) with ⟨-, hr⟩ | ⟨k, -, hr⟩
    · rw [hb, hr]
      exact ⟨rfl, rfl, rfl, id⟩
    · rw [hb, hr]
      exact ⟨rfl, rfl, rfl, fun h => by rw [hrun] at h; cases h⟩

/-- A host call is a reset, or keeps the configuration and the timers, and a halted machine halted. -/
theorem hostCall_reset_or_keeps {c : HostCall} {s t : State} (h : hostCall c s = .next t) :
    (∃ speed, c = .reset speed ∧ t = restart speed s) ∨
      (t.cfg = s.cfg ∧ t.dt = s.dt ∧ t.st = s.st ∧ (s.run = .halted → t.run = .halted)) := by
  rcases hostCall_cases h with ⟨speed, hc, rfl⟩ | ⟨-, -, rfl⟩ | ⟨bytes, -, -, rfl⟩ | ⟨keys, edges, -, rfl⟩
  · exact .inl ⟨speed, hc, rfl⟩
  · obtain ⟨m, hm, -⟩ := loadFont_eq s
    rw [hm]
    exact .inr ⟨rfl, rfl, rfl, id⟩
  · rcases loadProgram_cases bytes s with ⟨m, hm, -⟩ | hfail
    · rw [hm]
      exact .inr ⟨rfl, rfl, rfl, id⟩
    · rw [hfail]
      exact .inr ⟨rfl, rfl, rfl, fun _ => rfl⟩
  · exact .inr (beginCycle_keeps keys edges s)

/-- Between transactions a step is the host's reset, or keeps the configuration and the timers, and a halted machine halted. -/
theorem idle_reset_or_keeps {s t : State} (h : hostCall (nextCall s).1 (nextCall s).2 = .next t) :
    (∃ speed, (nextCall s).1 = .reset speed ∧ t.cfg = { s.cfg with speed := speed } ∧ t.dt = 0 ∧ t.st = 0) ∨
      (t.cfg = s.cfg ∧ t.dt = s.dt ∧ t.st = s.st ∧ (s.run = .halted → t.run = .halted)) := by
  obtain ⟨calls, fresh, hnext⟩ := nextCall_eq s
  rw [hnext] at h
  rcases hostCall_reset_or_keeps h with ⟨speed, hc, rfl⟩ | hkept
  · exact .inl ⟨speed, hc, rfl, rfl, rfl⟩
  · exact .inr hkept

/-- Settles O48: only a host call can change the configuration, and of those only the reset does. -/
theorem configurationIsFixed : Obligations.ConfigurationIsFixed := by
  intro s t h
  rcases step_cases h with ⟨hidle, hc⟩ | ⟨n, u, -, -, -, hrun, rfl⟩ | ⟨n, -, -, rfl⟩
  · rcases idle_reset_or_keeps hc with ⟨speed, hreset, hcfg, -⟩ | ⟨hcfg, -⟩
    · exact .inr ⟨speed, hidle, hreset, hcfg⟩
    · exact .inl hcfg
  · have hcfg := runInstr_cfg hrun
    rw [endInstr_eq]
    exact .inl hcfg
  · exact .inl (finishCycle_cfg s)

/-- Settles O44: no instruction runs while halted, the end of a call keeps `RUN`, and of the host calls only the reset does not keep a
halted machine halted. -/
theorem onlyResetLeavesHalted : Obligations.OnlyResetLeavesHalted := by
  intro s t h hhalted hleft
  rcases step_cases h with ⟨hidle, hc⟩ | ⟨n, u, -, hrunning, -⟩ | ⟨n, -, -, rfl⟩
  · rcases idle_reset_or_keeps hc with ⟨speed, hreset, -⟩ | ⟨-, -, -, hkept⟩
    · exact ⟨speed, hidle, hreset⟩
    · exact absurd (hkept hhalted) hleft
  · rw [hhalted] at hrunning
    cases hrunning
  · exact absurd ((finishCycle_run s).trans hhalted) hleft

/-! ## The timers -/

/-- A tick that changes a timer takes 1 from it (R320). -/
theorem tickDown_of_ne {b : Byte} (h : tickDown b ≠ b) : (tickDown b).toNat + 1 = b.toNat := by
  have htick := tickDown_toNat b
  have hne : (tickDown b).toNat ≠ b.toNat := fun he => h (BitVec.eq_of_toNat_eq he)
  omega

/-- The end of a call leaves the timers alone, or ticks both (R134, R320). -/
theorem finishCycle_timers (s : State) :
    ((finishCycle s).dt = s.dt ∧ (finishCycle s).st = s.st) ∨
      ((finishCycle s).dt = tickDown s.dt ∧ (finishCycle s).st = tickDown s.st) := by
  unfold finishCycle
  split
  · exact .inl ⟨rfl, rfl⟩
  · exact .inr ⟨rfl, rfl⟩

/-- What an instruction of a batch does to the timers: nothing, or the write that its word names. -/
theorem runInstr_timers {s t : State} (h : runInstr s = .next t) :
    (t.dt = s.dt ∨ ∃ x, decode (fetchWord s) = .ok (.ldDtVx x) ∧ t.dt = readV x s) ∧
      (t.st = s.st ∨ ∃ x, decode (fetchWord s) = .ok (.ldStVx x) ∧ t.st = readV x s) := by
  rcases runInstr_cases h with ⟨i, hd, he⟩ | ⟨e, -, rfl⟩
  · rw [hd]
    simpa using exec_timers he
  · exact ⟨.inl rfl, .inl rfl⟩

/-- Settles O9: a host call but the reset keeps the timers, an instruction changes one by its own write, and the end of a call by a
tick. -/
theorem timersChangeOnlyAtTicksAndWrites : Obligations.TimersChangeOnlyAtTicksAndWrites := by
  intro s t h
  rcases step_cases h with ⟨hidle, hc⟩ | ⟨n, u, hp, hrunning, hslot, hrun, rfl⟩ | ⟨n, hp, hover, rfl⟩
  · rcases idle_reset_or_keeps hc with ⟨speed, hreset, -, hdt, hst⟩ | ⟨-, hdt, hst, -⟩
    · exact ⟨fun _ => .inr (.inr ⟨speed, hidle, hreset, hdt⟩), fun _ => .inr (.inr ⟨speed, hidle, hreset, hst⟩)⟩
    · exact ⟨fun hne => absurd hdt hne, fun hne => absurd hst hne⟩
  · have hbatch : InBatch n s := ⟨hp, hrunning, hslot⟩
    obtain ⟨hdt, hst⟩ := runInstr_timers hrun
    rw [endInstr_eq]
    refine ⟨fun hne => ?_, fun hne => ?_⟩
    · obtain ⟨x, hd, hx⟩ := hdt.resolve_left hne
      exact .inr (.inl ⟨n, x, hbatch, hd, hx⟩)
    · obtain ⟨x, hd, hx⟩ := hst.resolve_left hne
      exact .inr (.inl ⟨n, x, hbatch, hd, hx⟩)
  · have hb : batchGoesOn n s = false := decide_eq_false hover
    rcases finishCycle_timers s with ⟨hdt, hst⟩ | ⟨hdt, hst⟩
    · exact ⟨fun hne => absurd hdt hne, fun hne => absurd hst hne⟩
    · rw [hdt, hst]
      exact ⟨fun hne => .inl ⟨n, hp, hb, tickDown_of_ne hne⟩, fun hne => .inl ⟨n, hp, hb, tickDown_of_ne hne⟩⟩

end Sys2Proof.Proofs

/-!
PROOFS. The steps of a call are the `cycle` transaction (spec/40_engine.md section 1): an induction on the slots a call has left. The
transaction keeps no control state, so running one instruction is shown not to depend on it.
-/

namespace Sys2Proof.Proofs

open Sys2Proof.Machine

/-- One instruction neither reads nor writes the control state. -/
theorem runInstr_setPhase (p : Phase) (s : State) : runInstr (setPhase p s) = mapNext (setPhase p) (runInstr s) := by
  cases hd : decode (fetchWord s) with
  | ok i =>
    rw [runInstr_of_decode hd, runInstr_of_decode (s := setPhase p s) hd]
    exact exec_changeAside (f := fun a => { a with phase := p }) (advancePc s)
      (.inr fun _ => rfl) (.inr fun _ _ => rfl) (.inr fun _ _ => rfl)
  | error e =>
    rw [runInstr_of_decode_error hd, runInstr_of_decode_error (s := setPhase p s) hd]
    rfl

/-- A machine that is not running executes nothing (R133). -/
theorem batch_of_not_running (slots : Nat) {s : State} (h : s.run ≠ .running) : batch slots s = .next s := by
  cases slots with
  | zero => rfl
  | succ slots => rw [batch, if_neg h]

theorem batch_of_next {slots : Nat} {s t : State} (h : s.run = .running) (hi : runInstr s = .next t) :
    batch (slots + 1) s = batch slots t := by
  rw [batch, if_pos h, hi]

theorem batch_of_fault {slots : Nat} {s : State} {r : Fault} (h : s.run = .running) (hi : runInstr s = .fault r) :
    batch (slots + 1) s = .fault r := by
  rw [batch, if_pos h, hi]

theorem batch_of_refused {slots : Nat} {s : State} {r : Refusal} (h : s.run = .running) (hi : runInstr s = .refused r) :
    batch (slots + 1) s = .refused r := by
  rw [batch, if_pos h, hi]

/-- The step of a batch is one instruction and what follows it (R134). -/
theorem step_inBatch_eq_mapNext {count : Nat} {s : State} (h : InBatch count s) :
    step s = mapNext (endInstr count) (runInstr s) := by
  rw [step_inBatch h, instrStep]
  cases runInstr s <;> rfl

/-- A batch neither reads nor writes the control state. -/
theorem batch_setPhase (slots : Nat) (p : Phase) (s : State) :
    batch slots (setPhase p s) = mapNext (setPhase p) (batch slots s) := by
  induction slots generalizing s with
  | zero => rfl
  | succ slots ih =>
    by_cases hrun : s.run = .running
    · rw [batch, batch, if_pos hrun, if_pos (show (setPhase p s).run = .running from hrun), runInstr_setPhase]
      cases runInstr s with
      | next t => exact ih t
      | fault r => rfl
      | refused r => rfl
    · rw [batch_of_not_running _ hrun, batch_of_not_running _ (show (setPhase p s).run ≠ .running from hrun)]
      rfl

/-- The end of a call does not read the control state. -/
theorem finishCycle_setPhase (p : Phase) (s : State) : finishCycle (setPhase p s) = finishCycle s := by
  by_cases h : s.run = .halted
  · rw [finishCycle, finishCycle, setPhase_run, if_pos h, if_pos h]
    rfl
  · rw [finishCycle, finishCycle, setPhase_run, if_neg h, if_neg h]
    rfl

theorem mapNext_finishCycle_batch_setPhase (slots : Nat) (p : Phase) (s : State) :
    mapNext finishCycle (batch slots (setPhase p s)) = mapNext finishCycle (batch slots s) := by
  rw [batch_setPhase]
  cases batch slots s with
  | next t => exact congrArg Host.Outcome.next (finishCycle_setPhase p t)
  | fault r => rfl
  | refused r => rfl

theorem run_one (s : State) : core.run 1 s = step s := by
  simp only [Host.Core.run, show core.step s = step s from rfl]
  cases step s <;> rfl

/-- Halted, the end of a call is what follows the instruction that halted (R134). -/
theorem endInstr_of_halted (count : Nat) {s : State} (h : s.run = .halted) : endInstr count s = finishCycle s := by
  rw [endInstr, finishCycle, if_pos h, if_pos h]

/-- From inside a call with `slots` slots left, at most one step a slot and one to end the call give the rest of the batch and the
end of the call. -/
theorem run_inCall (slots : Nat) {s : State} {count : Nat} (hp : s.phase = .inCall count) (halive : s.run ≠ .halted)
    (hspeed : s.cfg.speed = count + slots) : ∃ k, k ≤ slots + 1 ∧ core.run k s = mapNext finishCycle (batch slots s) := by
  induction slots generalizing s count with
  | zero =>
    have hover : batchGoesOn count s = false := decide_eq_false fun h => by omega
    exact ⟨1, Nat.le_refl 1, by rw [run_one, step_batchOver hp hover]; rfl⟩
  | succ slots ih =>
    by_cases hrun : s.run = .running
    · have hstep := step_inBatch_eq_mapNext ⟨hp, hrun, by omega⟩
      cases hi : runInstr s with
      | next t =>
        rw [hi] at hstep
        rw [batch_of_next hrun hi]
        by_cases hhalted : t.run = .halted
        · refine ⟨1, by omega, ?_⟩
          rw [run_one, hstep, batch_of_not_running _ (by simp [hhalted]), mapNext, endInstr_of_halted _ hhalted]
          rfl
        · have hcfg := runInstr_cfg hi
          obtain ⟨k, hk, hk'⟩ := ih (s := setPhase (.inCall (count + 1)) t) rfl hhalted (by rw [setPhase_cfg, hcfg]; omega)
          refine ⟨k + 1, by omega, ?_⟩
          rw [run_next hstep, endInstr_of_alive hhalted, hk', mapNext_finishCycle_batch_setPhase]
      | fault r =>
        rw [hi] at hstep
        exact ⟨1, by omega, by rw [run_one, hstep, batch_of_fault hrun hi]; rfl⟩
      | refused r =>
        rw [hi] at hstep
        exact ⟨1, by omega, by rw [run_one, hstep, batch_of_refused hrun hi]; rfl⟩
    · have hover : batchGoesOn count s = false := decide_eq_false fun h => hrun h.1
      exact ⟨1, by omega, by rw [run_one, step_batchOver hp hover, batch_of_not_running _ hrun]; rfl⟩

/-- The step that takes a lined-up `cycle` is the start of the call. -/
theorem step_cycle {keys edges : BitVec 16} {rest : List HostCall} {s : State} (h : NextCallIs (.cycle keys edges) rest s) :
    step s = .next (beginCycle keys edges { s with hostCalls := rest }) := by
  rw [step_lined_up h.phase h.calls]
  rfl

theorem beginCycle_of_halted (keys edges : BitVec 16) {s : State} (h : s.run = .halted) : beginCycle keys edges s = s := by
  rw [beginCycle, h]

/-- The start of a call on a machine that is alive enters the batch with it alive. -/
theorem beginCycle_of_alive (keys edges : BitVec 16) {s : State} (h : s.run ≠ .halted) :
    (beginCycle keys edges s).phase = .inCall 0 ∧ (beginCycle keys edges s).run ≠ .halted := by
  rcases beginCycle_cases keys edges s with ⟨hrun, -⟩ | ⟨hrun, hb⟩ | ⟨hrun, hb⟩
  · exact absurd hrun h
  · rw [hb]
    exact ⟨rfl, h⟩
  · rw [hb]
    rcases resolveWait_cases edges (enterCycle keys s) with ⟨-, hr⟩ | ⟨k, -, hr⟩
    · rw [hr]
      exact ⟨rfl, h⟩
    · rw [hr]
      exact ⟨rfl, nofun⟩

theorem cycle_of_alive (keys edges : BitVec 16) {s : State} (h : s.run ≠ .halted) :
    cycle keys edges s = mapNext finishCycle (batch s.cfg.speed (beginCycle keys edges s)) := by
  rw [cycle, if_neg h]
  cases batch s.cfg.speed (beginCycle keys edges s) <;> rfl

/-- Settles O10: one step starts the call, and the steps inside it are the batch and the end of the call. -/
theorem stepsOfACallAreTheCycleTransaction : Obligations.StepsOfACallAreTheCycleTransaction := by
  intro s keys edges rest hcall
  have hstep := step_cycle hcall
  by_cases hrun : s.run = .halted
  · refine ⟨1, by omega, ?_⟩
    rw [run_one, hstep, beginCycle_of_halted (s := { s with hostCalls := rest }) keys edges hrun, cycle, if_pos hrun]
  · obtain ⟨hphase, halive⟩ := beginCycle_of_alive (s := { s with hostCalls := rest }) keys edges hrun
    obtain ⟨hcfg, -⟩ := beginCycle_keeps keys edges { s with hostCalls := rest }
    obtain ⟨k, hk, hk'⟩ := run_inCall s.cfg.speed hphase halive (by rw [hcfg, Nat.zero_add])
    refine ⟨k + 1, by omega, ?_⟩
    rw [run_next hstep, hk', cycle_of_alive (s := { s with hostCalls := rest }) keys edges hrun]

end Sys2Proof.Proofs

/-!
PROOFS. The host's transactions (spec/20_memory.md section 4, spec/60_exceptions.md section 1, spec/70_reset_and_hazards.md section 1) and
the start of a call (spec/40_engine.md section 1).
-/

namespace Sys2Proof.Proofs

open Sys2Proof.Machine

/-- A program that does not fit fails before any byte is written (R80, R82). -/
theorem loadProgram_of_too_large {bytes : List Byte} (h : 3584 < bytes.length) (s : State) : loadProgram bytes s = failLoad s :=
  if_pos h

/-- Before the first `cycle` the host's next call, a font load, is executed (R84). -/
theorem step_loadFont {rest : List HostCall} {s : State} (hc : NextCallIs .loadFont rest s) (hs : s.started = false) :
    step s = .next (loadFont { s with hostCalls := rest }) := by
  rw [step_lined_up hc.phase hc.calls]
  simp [hostCall, hs]

/-- The font load is a copy of the 80 bytes of `FONT_ROM` from address 0 on (R79). -/
theorem loadFont_eq_writeBytes (s : State) : loadFont s = writeBytes (BitVec.ofNat 12 0) s.cfg.fontRom.toList s := rfl

/-- Between transactions with nothing lined up, the host calls `cycle` with the next free key vectors (R327; log entry 2). -/
theorem step_unscripted {s : State} (hidle : s.phase = .idle) (hcalls : s.hostCalls = []) :
    step s = hostCall (.cycle (Config.freeKeys s.fresh) (Config.freeEdges s.fresh)) (useFresh s) := by
  simp only [step, hidle, idleStep, nextCall, hcalls]

theorem beginCycle_of_running (keys edges : BitVec 16) {s : State} (h : s.run = .running) :
    beginCycle keys edges s = enterCycle keys s := by
  rw [beginCycle, h]

/-- Settles O43: the call starts nothing on a halted machine. -/
theorem cycleWhileHaltedChangesNothing : Obligations.CycleWhileHaltedChangesNothing := by
  intro s keys edges rest hcall hhalted
  rw [step_cycle hcall, beginCycle_of_halted (s := { s with hostCalls := rest }) keys edges hhalted]

/-- Settles O59: a running machine enters the call, and no wait is resolved. -/
theorem runningCallEntersItsBatch : Obligations.RunningCallEntersItsBatch := by
  intro s keys edges rest hcall hrunning
  rw [step_cycle hcall, beginCycle_of_running (s := { s with hostCalls := rest }) keys edges hrunning]
  rfl

/-- Settles O49: each element's reset value, and every register and pixel of a vector of equal ones. -/
theorem resetState : Obligations.ResetState := by
  have hregs : ∀ r, readV r State.reset = 0 := fun r => by simp [readV, State.reset]
  have hpixels : ∀ px py, pixel px py State.reset = false := fun px py => by simp [pixel, State.reset]
  exact ⟨rfl, hregs, fun _ => rfl, hpixels, rfl, rfl, rfl, rfl, rfl, rfl, rfl, rfl, rfl, rfl, rfl, rfl, rfl, rfl⟩

/-- Settles O50: the host's reset is a restart with its `SPEED`. -/
theorem resetCallRestoresTheResetState : Obligations.ResetCallRestoresTheResetState := by
  intro s speed rest hcall
  rw [step_lined_up hcall.phase hcall.calls]
  rfl

/-- Settles O52: the length is checked first. -/
theorem tooLargeProgramHaltsBeforeAnyWrite : Obligations.TooLargeProgramHaltsBeforeAnyWrite := by
  intro s bytes rest hcall hstarted hlarge
  rw [step_loadProgram hcall hstarted, loadProgram_of_too_large hlarge]
  rfl

/-- Settles O53: the copy of 80 bytes from address 0 is read back byte by byte, and keeps every part but memory. -/
theorem fontIsLoadedAtZero : Obligations.FontIsLoadedAtZero := by
  intro s rest hcall hstarted
  have hlength : s.cfg.fontRom.toList.length = 80 := Vector.length_toList
  obtain ⟨hback, hother⟩ := writeBytes_read 0 s.cfg.fontRom.toList (by omega) { s with hostCalls := rest }
  refine ⟨_, step_loadFont hcall hstarted, fun j hj => ?bytes, fun a ha => ?others, writeBytes_kept _ _ _⟩
  case bytes =>
    have hbyte := hback j (by omega)
    rw [Nat.zero_add] at hbyte
    rw [loadFont_eq_writeBytes]
    exact hbyte
  case others => exact hother a (.inr (by omega))

/-- Settles O54: both loads are refused by the same test of `STARTED`. -/
theorem loadsAfterTheFirstCycleAreRefused : Obligations.LoadsAfterTheFirstCycleAreRefused := by
  intro s bytes rest hstarted
  refine ⟨fun hcall => ?program, fun hcall => ?font⟩
  case program =>
    rw [step_lined_up hcall.phase hcall.calls]
    exact if_pos hstarted
  case font =>
    rw [step_lined_up hcall.phase hcall.calls]
    exact if_pos hstarted

/-- Settles O55: the free key vectors are the ones the step uses. -/
theorem unscriptedHostCallsCycle : Obligations.UnscriptedHostCallsCycle := by
  intro s hidle hcalls
  refine ⟨Config.freeKeys s.fresh, Config.freeEdges s.fresh, ?_⟩
  have hscripted := step_lined_up
    (s := { s with hostCalls := [.cycle (Config.freeKeys s.fresh) (Config.freeEdges s.fresh)], fresh := s.fresh + 1 }) hidle rfl
  rw [step_unscripted hidle hcalls, hscripted, useFresh, hcalls]

end Sys2Proof.Proofs

/-!
PROOFS. Skips, keys and timers (spec/42_skip.md, spec/46_keys_timers.md).
-/

namespace Sys2Proof.Proofs

open Sys2Proof.Machine

/-- A skip instruction moves the program counter alone, by 2 or not at all (R180). -/
theorem skipIf_moves_pc (c : Bool) (s : State) {a : Addr} (ha : (if c then s.pc + 2 else s.pc) = a) :
    ∃ t, (.next (skipIf c s) : Outcome) = .next t ∧ t.pc = a ∧ Kept [.pc] s t := by
  rw [skipIf_eq, ha]
  exact ⟨_, rfl, rfl, setPc_kept a s⟩

/-- The key a byte names is its value mod 16 (R270). -/
theorem keyPressed_keyIndex (b : Byte) (s : State) : keyPressed (keyIndex b) s = s.keys.getLsbD (b.toNat % 16) := by
  rw [keyPressed, keyIndex, BitVec.toNat_setWidth]

/-- Settles O18: each of the four is a skip on its comparison. -/
theorem registerSkipsMovePcByTwoOrNot : Obligations.RegisterSkipsMovePcByTwoOrNot := by
  intro s x y nn
  refine ⟨skipIf_moves_pc _ s ?_, skipIf_moves_pc _ s ?_, skipIf_moves_pc _ s ?_, skipIf_moves_pc _ s ?_⟩
  all_goals simp

/-- Settles O19: each of the two is a skip on the key `Vx mod 16`. -/
theorem keySkipsTestTheLowNibble : Obligations.KeySkipsTestTheLowNibble := by
  intro s x
  refine ⟨skipIf_moves_pc _ s ?pressed, skipIf_moves_pc _ s ?notPressed⟩
  case pressed => simp only [keyPressed_keyIndex, latchA_eq]
  case notPressed =>
    simp only [keyPressed_keyIndex, latchA_eq]
    cases s.keys.getLsbD ((readV x s).toNat % 16) <;> rfl

/-- Writing `DT` keeps every other part. -/
theorem setDt_kept (b : Byte) (s : State) : Kept [.delay] s (setDt b s) := by
  constructor <;> simp

/-- Writing `ST` keeps every other part. -/
theorem setSt_kept (b : Byte) (s : State) : Kept [.sound] s (setSt b s) := by
  constructor <;> simp

/-- Entering the wait keeps every part but the run state. -/
theorem enterWait_kept (x : Reg) (s : State) : Kept [.runState] s (enterWait x s) := by
  constructor <;> simp

/-- What LD Vx, K does: it enters the wait (R273). -/
theorem exec_ldVxK (x : Reg) (s : State) : exec (.ldVxK x) s = .next (enterWait x s) := rfl

/-- What LD Vx, DT does (R275). -/
theorem exec_ldVxDt (x : Reg) (s : State) : exec (.ldVxDt x) s = .next (writeV x s.dt s) := rfl

/-- What LD DT, Vx does (R276). -/
theorem exec_ldDtVx (x : Reg) (s : State) : exec (.ldDtVx x) s = .next (setDt (readV x s) s) := rfl

/-- What LD ST, Vx does (R277). -/
theorem exec_ldStVx (x : Reg) (s : State) : exec (.ldStVx x) s = .next (setSt (readV x s) s) := rfl

/-- Settles O38: LD Vx, K only enters the wait. -/
theorem waitForKeyLatchesTheRegister : Obligations.WaitForKeyLatchesTheRegister := by
  intro s x
  exact ⟨enterWait x s, exec_ldVxK x s, rfl, rfl, enterWait_kept x s⟩

/-- Settles O39: each of the three is one write. -/
theorem timerInstructionsMoveOneByte : Obligations.TimerInstructionsMoveOneByte := by
  intro s x
  refine ⟨?read, ?delay, ?sound⟩
  case read => exact ⟨_, exec_ldVxDt x s, readV_writeV_same x s.dt s, writeV_regsKept x s.dt s, writeV_kept x s.dt s⟩
  case delay => exact ⟨_, exec_ldDtVx x s, rfl, setDt_kept _ s⟩
  case sound => exact ⟨_, exec_ldStVx x s, rfl, setSt_kept _ s⟩

/-! ## The wait for a key (46_keys_timers.md section 2) -/

/-- Without a least key no key has its edge bit set. -/
theorem eq_zero_of_leastKey_none {edges : BitVec 16} (h : leastKey edges = none) : edges = 0 := by
  apply BitVec.eq_of_getLsbD_eq
  intro k hk
  have hclear := List.find?_eq_none.mp h k (List.mem_range.mpr hk)
  simpa using hclear

theorem beginCycle_of_waiting (keys edges : BitVec 16) {s : State} (h : s.run = .waitingForKey) :
    beginCycle keys edges s = resolveWait edges (enterCycle keys s) := by
  rw [beginCycle, h]

/-- Settles O41: some edge is set, so there is a least key, and resolving the wait is one register write beside `RUN`. -/
theorem waitResolvesOnTheLowestNewKey : Obligations.WaitResolvesOnTheLowestNewKey := by
  intro s keys edges rest hcall hwaiting hedges
  have hstep := step_cycle hcall
  rw [beginCycle_of_waiting (s := { s with hostCalls := rest }) keys edges hwaiting] at hstep
  rcases resolveWait_cases edges (enterCycle keys { s with hostCalls := rest }) with ⟨hnone, -⟩ | ⟨k, hk, hresolved⟩
  · exact absurd (eq_zero_of_leastKey_none hnone) hedges
  · rw [hresolved] at hstep
    obtain ⟨hlt, hset, hleast⟩ := leastKey_some hk
    exact ⟨_, k, hstep, hlt, hset, hleast, readV_writeV_same _ _ _, writeV_regsKept _ _ s, writeV_kept _ _ _⟩

/-- Settles O42: the first step enters the call still waiting, so the second is the end of the call. -/
theorem waitingCallOnlyTicksTheTimers : Obligations.WaitingCallOnlyTicksTheTimers := by
  intro s keys rest hcall hwaiting
  let u := enterCycle keys { s with hostCalls := rest }
  have hfirst : step s = .next u := by
    rw [step_cycle hcall, beginCycle_of_waiting (s := { s with hostCalls := rest }) keys 0 hwaiting]
    rfl
  have hwaits : u.run = .waitingForKey := hwaiting
  have hsecond : step u = .next (finishCycle u) :=
    step_batchOver (count := 0) rfl (decide_eq_false fun h => by rw [hwaits] at h; cases h.1)
  have halive : u.run ≠ .halted := by rw [hwaits]; exact nofun
  rw [finishCycle_of_not_halted halive, ← hcall.phase] at hsecond
  have hrun : core.run 2 s = _ := (run_next hfirst).trans ((run_one u).trans hsecond)
  refine ⟨_, hrun, tickDown_toNat s.dt, tickDown_toNat s.st, ?gate, kept_refl [] _⟩
  exact congrArg (fun n => decide (0 < n)) (tickDown_toNat s.st).symm

end Sys2Proof.Proofs

/-!
PROOFS. The ALU (spec/43_alu.md): bitwise operations, the flag laws, and the random byte.
-/

namespace Sys2Proof.Proofs

open Sys2Proof.Machine

/-- A state that differs in the registers alone keeps every other part. -/
theorem kept_regs (v : Vector Byte 16) (s : State) : Kept [.regs] s { s with v := v } := by
  constructor <;> simp [readMem, pixel]

/-! ## Bitwise operations -/

/-- What OR does: it writes the bitwise or to `Vx`, and no flag (R194). -/
theorem exec_or (x y : Reg) (s : State) : exec (.or x y) s = .next (writeV x (readV x s ||| readV y s) s) := rfl

/-- What AND does: it writes the bitwise and to `Vx`, and no flag (R195). -/
theorem exec_and (x y : Reg) (s : State) : exec (.and x y) s = .next (writeV x (readV x s &&& readV y s) s) := rfl

/-- What XOR does: it writes the bitwise exclusive or to `Vx`, and no flag (R196). -/
theorem exec_xor (x y : Reg) (s : State) : exec (.xor x y) s = .next (writeV x (readV x s ^^^ readV y s) s) := rfl

/-- Settles O23: each of the three is one register write, of a byte known bit by bit. -/
theorem bitwiseOperationsWriteOnlyVx : Obligations.BitwiseOperationsWriteOnlyVx := by
  intro s x y
  refine ⟨⟨_, exec_or x y s, fun k => ?_, writeV_regsKept x _ s, writeV_kept x _ s⟩,
    ⟨_, exec_and x y s, fun k => ?_, writeV_regsKept x _ s, writeV_kept x _ s⟩,
    ⟨_, exec_xor x y s, fun k => ?_, writeV_regsKept x _ s, writeV_kept x _ s⟩⟩
  · rw [readV_writeV_same, BitVec.getLsbD_or]
  · rw [readV_writeV_same, BitVec.getLsbD_and]
  · rw [readV_writeV_same, BitVec.getLsbD_xor]

/-! ## Results and flags -/

/-- After a flag write and a result write `Vx` holds the result, whichever register it is (R139). -/
@[simp] theorem readV_writeFlagThenResult_same (x : Reg) (flag : Bool) (b : Byte) (s : State) :
    readV x (writeFlagThenResult x flag b s) = b := by
  rw [readV_writeFlagThenResult, if_pos rfl]

/-- After a flag write and a result write to another register VF holds the flag (R139). -/
theorem readV_writeFlagThenResult_vf {x : Reg} (h : x ≠ 0xF) (flag : Bool) (b : Byte) (s : State) :
    readV 0xF (writeFlagThenResult x flag b s) = flagByte flag := by
  rw [readV_writeFlagThenResult, if_neg h.symm, if_pos (by decide)]

theorem writeFlagThenResult_regsKept (x : Reg) (flag : Bool) (b : Byte) (s : State) :
    RegsKept [x, 0xF] s (writeFlagThenResult x flag b s) := by
  intro r hr
  obtain ⟨hx, hvf⟩ := not_or.mp (mt List.mem_pair.mpr hr)
  rw [readV_writeFlagThenResult, if_neg hx, if_neg (show r ≠ vf from hvf)]

theorem writeFlagThenResult_kept (x : Reg) (flag : Bool) (b : Byte) (s : State) :
    Kept [.regs] s (writeFlagThenResult x flag b s) :=
  kept_regs _ s

/-- The carry as VF holds it (R190, R197). -/
theorem flagByte_carryOut (a b : Byte) : flagByte (carryOut a b) = if 255 < a.toNat + b.toNat then 1 else 0 := by
  simp only [flagByte, carryOut_eq_true]

/-- The no-borrow flag as VF holds it (R190, R198, R200). -/
theorem flagByte_noBorrow (a b : Byte) : flagByte (noBorrow a b) = if b.toNat ≤ a.toNat then 1 else 0 := by
  simp only [flagByte, noBorrow_eq_true]

/-- A difference of bytes is a difference mod 256. -/
theorem byte_sub_toNat (a b : Byte) : (a - b).toNat = (a.toNat + 256 - b.toNat) % 256 := by
  have hb := b.isLt
  rw [BitVec.toNat_sub]
  omega

/-- The bit shifted out to the right is the byte mod 2 (R199). -/
theorem flagByte_shiftedOutRight (a : Byte) : (flagByte (shiftedOutRight a)).toNat = a.toNat % 2 := by
  revert a
  decide

/-- The bit shifted out to the left is the byte divided by 128 (R201). -/
theorem flagByte_shiftedOutLeft (a : Byte) : (flagByte (shiftedOutLeft a)).toNat = a.toNat / 128 := by
  revert a
  decide

/-- A byte shifted right by one bit is halved (R199). -/
theorem byte_shiftRight_toNat (a : Byte) : (a >>> 1).toNat = a.toNat / 2 := by
  rw [BitVec.toNat_ushiftRight, Nat.shiftRight_eq_div_pow, pow_one]

/-- A byte shifted left by one bit is doubled mod 256 (R201). -/
theorem byte_shiftLeft_toNat (a : Byte) : (a <<< 1).toNat = 2 * a.toNat % 256 := by
  rw [BitVec.toNat_shiftLeft, Nat.shiftLeft_eq, pow_one, Nat.mul_comm]

theorem exec_addVxVy (x y : Reg) (s : State) : exec (.addVxVy x y) s =
    .next (writeFlagThenResult x (carryOut (readV x s) (readV y s)) (readV x s + readV y s) s) := rfl

theorem exec_sub (x y : Reg) (s : State) : exec (.sub x y) s =
    .next (writeFlagThenResult x (noBorrow (readV x s) (readV y s)) (readV x s - readV y s) s) := rfl

theorem exec_subn (x y : Reg) (s : State) : exec (.subn x y) s =
    .next (writeFlagThenResult x (noBorrow (readV y s) (readV x s)) (readV y s - readV x s) s) := rfl

theorem exec_shr (x y : Reg) (s : State) : exec (.shr x y) s =
    .next (writeFlagThenResult x (shiftedOutRight (readV x s)) (readV x s >>> 1) s) := rfl

theorem exec_shl (x y : Reg) (s : State) : exec (.shl x y) s =
    .next (writeFlagThenResult x (shiftedOutLeft (readV x s)) (readV x s <<< 1) s) := rfl

/-- Settles O24: both are a flag write and a result write, of a carry and a sum, or of a no-borrow and a difference. -/
theorem addAndSubtractFlagLaws : Obligations.AddAndSubtractFlagLaws := by
  intro s x y
  refine ⟨⟨_, exec_addVxVy x y s, ?sum, fun hx => ?carry, writeFlagThenResult_regsKept x _ _ s, writeFlagThenResult_kept x _ _ s⟩,
    ⟨_, exec_sub x y s, ?difference, fun hx => ?noBorrow, writeFlagThenResult_regsKept x _ _ s, writeFlagThenResult_kept x _ _ s⟩⟩
  case sum => rw [readV_writeFlagThenResult_same, BitVec.toNat_add]
  case carry => rw [readV_writeFlagThenResult_vf hx, flagByte_carryOut]
  case difference => rw [readV_writeFlagThenResult_same, byte_sub_toNat]
  case noBorrow => rw [readV_writeFlagThenResult_vf hx, flagByte_noBorrow]

/-- Settles O25: a flag write and a result write, of the no-borrow and the difference of `Vy` and `Vx`. -/
theorem reverseSubtractFlagLaw : Obligations.ReverseSubtractFlagLaw := by
  intro s x y
  refine ⟨_, exec_subn x y s, ?difference, fun hx => ?noBorrow, writeFlagThenResult_regsKept x _ _ s, writeFlagThenResult_kept x _ _ s⟩
  case difference => rw [readV_writeFlagThenResult_same, byte_sub_toNat]
  case noBorrow => rw [readV_writeFlagThenResult_vf hx, flagByte_noBorrow]

/-- Settles O26: both are a flag write and a result write, of the bit shifted out and the shifted byte. -/
theorem shiftsMoveVxByOneBit : Obligations.ShiftsMoveVxByOneBit := by
  intro s x y
  refine ⟨⟨_, exec_shr x y s, ?half, fun hx => ?lowBit, writeFlagThenResult_regsKept x _ _ s, writeFlagThenResult_kept x _ _ s⟩,
    ⟨_, exec_shl x y s, ?double, fun hx => ?highBit, writeFlagThenResult_regsKept x _ _ s, writeFlagThenResult_kept x _ _ s⟩⟩
  case half => rw [readV_writeFlagThenResult_same, byte_shiftRight_toNat]
  case lowBit => rw [readV_writeFlagThenResult_vf hx, flagByte_shiftedOutRight]
  case double => rw [readV_writeFlagThenResult_same, byte_shiftLeft_toNat]
  case highBit => rw [readV_writeFlagThenResult_vf hx, flagByte_shiftedOutLeft]

/-! ## The random byte -/

/-- What RND does: one draw, written to `Vx` under the mask (R202). -/
theorem exec_rnd (x : Reg) (nn : Byte) (s : State) : exec (.rnd x nn) s = .next (writeV x ((draw s).1 &&& nn) (draw s).2) := rfl

/-- A draw uses up the next byte the host lined up, or a free value (R53; log entry 4). -/
theorem draw_source (s : State) :
    (s.randomBytes = (draw s).1 :: (draw s).2.randomBytes ∧ (draw s).2.fresh = s.fresh) ∨
      (s.randomBytes = [] ∧ (draw s).2.randomBytes = [] ∧ (draw s).1 = Config.freeByte s.fresh ∧
        (draw s).2.fresh = s.fresh + 1) := by
  rcases draw_cases s with ⟨b, rest, hbytes, hd⟩ | ⟨hbytes, hd⟩
  · rw [hd]
    exact .inl ⟨hbytes, rfl⟩
  · rw [hd]
    exact .inr ⟨hbytes, hbytes, rfl, rfl⟩

/-- A draw changes the random source alone. -/
theorem draw_eq (s : State) : ∃ bytes fresh, (draw s).2 = { s with randomBytes := bytes, fresh := fresh } := by
  rcases draw_cases s with ⟨b, rest, -, hd⟩ | ⟨-, hd⟩
  · exact ⟨rest, s.fresh, by rw [hd]; rfl⟩
  · exact ⟨s.randomBytes, s.fresh + 1, by rw [hd]; rfl⟩

/-- A draw leaves the registers alone. -/
theorem readV_draw (r : Reg) (s : State) : readV r (draw s).2 = readV r s := by
  obtain ⟨bytes, fresh, hd⟩ := draw_eq s
  rw [hd]
  rfl

/-- A draw and a register write keep every part but the registers and the random source. -/
theorem writeV_draw_kept (x : Reg) (b : Byte) (s : State) : Kept [.regs, .random] s (writeV x b (draw s).2) := by
  obtain ⟨bytes, fresh, hd⟩ := draw_eq s
  rw [hd]
  constructor <;> simp [readMem, pixel]

/-- Settles O27: the byte drawn is the `r` of the statement, and a bit outside the mask is false in the masked byte. -/
theorem randomByteIsMasked : Obligations.RandomByteIsMasked := by
  intro s x nn
  refine ⟨decode_encode (.rnd x nn), _, (draw s).1, exec_rnd x nn s, readV_writeV_same x _ _, fun k hk => ?masked, draw_source s,
    fun r hr => ?others, writeV_draw_kept x _ s⟩
  case masked => rw [readV_writeV_same, BitVec.getLsbD_and, hk, Bool.and_false]
  case others => rw [writeV_regsKept x _ _ r hr, readV_draw]

end Sys2Proof.Proofs

/-!
PROOFS. Memory transfers (spec/44_index_memory.md, spec/20_memory.md): the bytes a store leaves, seen by every later read and fetch.
-/

namespace Sys2Proof.Proofs

open Sys2Proof.Machine

/-! ## Decimal digits -/

/-- What LD B, Vx does: three byte writes (R235). -/
theorem exec_ldBVx (x : Reg) (s : State) : exec (.ldBVx x) s = .next (writeMem (indexAddr s 2) (ones (readV x s))
    (writeMem (indexAddr s 1) (tens (readV x s)) (writeMem (indexAddr s 0) (hundreds (readV x s)) s))) := rfl

/-- What is read at an offset from `I` after the three byte writes (R235). -/
theorem readMem_writeDigits (a b c : Byte) (s : State) {k : Nat} (hk : k < 4096) :
    readMem (indexAddr s k) (writeMem (indexAddr s 2) c (writeMem (indexAddr s 1) b (writeMem (indexAddr s 0) a s))) =
      if k = 2 then c else if k = 1 then b else if k = 0 then a else readMem (indexAddr s k) s := by
  have hinj : ∀ j, j < 4096 → (indexAddr s k = indexAddr s j ↔ k = j) := fun j hj => ea_inj hk hj
  simp only [readMem_writeMem, hinj 2 (by decide), hinj 1 (by decide), hinj 0 (by decide)]

theorem hundreds_toNat (b : Byte) : (hundreds b).toNat = b.toNat / 100 := by
  have hb := b.isLt
  rw [hundreds, BitVec.toNat_ofNat, Nat.mod_eq_of_lt (by omega)]

theorem tens_toNat (b : Byte) : (tens b).toNat = b.toNat / 10 % 10 := by
  rw [tens, BitVec.toNat_ofNat, Nat.mod_eq_of_lt (by omega)]

theorem ones_toNat (b : Byte) : (ones b).toNat = b.toNat % 10 := by
  rw [ones, BitVec.toNat_ofNat, Nat.mod_eq_of_lt (by omega)]

/-- Settles O29: three byte writes at three different addresses. -/
theorem decimalDigitsAreStored : Obligations.DecimalDigitsAreStored := by
  intro s x
  refine ⟨_, exec_ldBVx x s, ?hundreds, ?tens, ?ones, fun a ha => ?others, kept_memory _ s⟩
  case hundreds => rw [readMem_writeDigits _ _ _ s (by decide)]; exact hundreds_toNat _
  case tens => rw [readMem_writeDigits _ _ _ s (by decide)]; exact tens_toNat _
  case ones => rw [readMem_writeDigits _ _ _ s (by decide)]; exact ones_toNat _
  case others =>
    simp only [List.mem_cons, List.not_mem_nil, or_false, not_or] at ha
    obtain ⟨h0, h1, h2⟩ := ha
    rw [readMem_writeMem, if_neg h2, readMem_writeMem, if_neg h1, readMem_writeMem, if_neg h0]

/-- After LD B every byte is the digit stored there or the byte there was. -/
theorem readMem_digits_eq_byteAfterDigits (x : Reg) (a : Addr) (s : State) :
    readMem a (writeMem (indexAddr s 2) (ones (readV x s))
      (writeMem (indexAddr s 1) (tens (readV x s)) (writeMem (indexAddr s 0) (hundreds (readV x s)) s))) =
      byteAfterDigits s x a := by
  have haddr := indexAddr_offset s a
  have hlt := (a - s.i).isLt
  unfold byteAfterDigits
  generalize (a - s.i).toNat = k at haddr hlt ⊢
  rw [← haddr, readMem_writeDigits _ _ _ s hlt]
  rcases Nat.lt_or_ge k 3 with hk | hk
  · have hbyte := (readV x s).isLt
    rw [if_pos hk]
    interval_cases k
    · have hhundreds : (readV x s).toNat / 10 ^ 2 % 10 = (readV x s).toNat / 100 := by omega
      simp only [Nat.sub_zero, hhundreds]
      rfl
    · rfl
    · simp only [Nat.sub_self, pow_zero, Nat.div_one]
      rfl
  · rw [if_neg (by omega), if_neg (by omega), if_neg (by omega), if_neg (by omega)]

/-! ## Register ranges -/

/-- The numbers of the range are those up to `x` (R105). -/
theorem mem_regRange {x : Reg} {k : Nat} : k ∈ regRange x ↔ k ≤ x.toNat := by
  rw [regRange, List.mem_range, Nat.lt_succ_iff]

theorem regRange_nodup (x : Reg) : (regRange x).Nodup := List.nodup_range

theorem lt_16_of_mem_regRange (x : Reg) : ∀ k ∈ regRange x, k < 16 := by
  intro k hk
  have hx := x.isLt
  have hkx := mem_regRange.mp hk
  omega

/-- What LD [I], Vx does: it stores the range of registers (R236). -/
theorem exec_ldMiVx (x : Reg) (s : State) : exec (.ldMiVx x) s = .next (storeRegs (regRange x) s) := rfl

/-- What LD Vx, [I] does: it loads the range of registers (R237). -/
theorem exec_ldVxMi (x : Reg) (s : State) : exec (.ldVxMi x) s = .next (loadRegs (regRange x) s) := rfl

theorem storeRegs_kept (ks : List Nat) (s : State) : Kept [.memory] s (storeRegs ks s) := by
  obtain ⟨m, hm⟩ := storeRegs_eq ks s
  rw [hm]
  exact kept_memory m s

theorem loadRegs_kept (ks : List Nat) (s : State) : Kept [.regs] s (loadRegs ks s) := by
  obtain ⟨v, hv⟩ := loadRegs_eq ks s
  rw [hv]
  exact kept_regs v s

/-- Each register of the range is read back at its address (R236). -/
theorem readMem_storeRegs_of_le {r x : Reg} (s : State) (h : r ≤ x) :
    readMem (indexAddr s r.toNat) (storeRegs (regRange x) s) = readV r s := by
  have hstored := (storeRegs_read _ (regRange_nodup x) (lt_16_of_mem_regRange x) s).1 r.toNat (mem_regRange.mpr h)
  rwa [BitVec.ofNat_toNat, BitVec.setWidth_eq] at hstored

/-- After LD [I], Vx every byte is the register stored there or the byte there was (R236). -/
theorem readMem_storeRegs_eq_byteAfterStore (x : Reg) (a : Addr) (s : State) :
    readMem a (storeRegs (regRange x) s) = byteAfterStore s x a := by
  obtain ⟨hstored, hother⟩ := storeRegs_read _ (regRange_nodup x) (lt_16_of_mem_regRange x) s
  have haddr := indexAddr_offset s a
  unfold byteAfterStore
  by_cases hk : (a - s.i).toNat ≤ x.toNat
  · have hbyte := hstored _ (mem_regRange.mpr hk)
    rw [haddr] at hbyte
    rw [if_pos hk, hbyte]
  · rw [if_neg hk]
    refine hother a fun k hmem heq => hk ?_
    have hlt := lt_16_of_mem_regRange x k hmem
    rw [heq, indexAddr_sub s (by omega)]
    exact mem_regRange.mp hmem

/-- Settles O30: the range is stored register by register, and keeps every part but memory. -/
theorem registersAreStored : Obligations.RegistersAreStored := by
  intro s x
  refine ⟨_, exec_ldMiVx x s, fun r hr => readMem_storeRegs_of_le s hr, fun a ha => ?_, storeRegs_kept _ s⟩
  refine (storeRegs_read _ (regRange_nodup x) (lt_16_of_mem_regRange x) s).2 a fun k hk => ?_
  have hlt := lt_16_of_mem_regRange x k hk
  have hk16 : (BitVec.ofNat 4 k).toNat = k := by rw [BitVec.toNat_ofNat, Nat.mod_eq_of_lt hlt]
  have hne := ha (BitVec.ofNat 4 k) (by rw [BitVec.le_def, hk16]; exact mem_regRange.mp hk)
  rwa [hk16] at hne

/-- Settles O31: the range is loaded register by register, and keeps every part but the registers. -/
theorem registersAreLoaded : Obligations.RegistersAreLoaded := by
  intro s x
  refine ⟨_, exec_ldVxMi x s, fun r hr => ?loaded, fun r hr => ?others, loadRegs_kept _ s⟩
  case loaded => rw [loadRegs_read _ (lt_16_of_mem_regRange x), if_pos (mem_regRange.mpr hr)]
  case others =>
    rw [loadRegs_read _ (lt_16_of_mem_regRange x), if_neg]
    exact fun hmem => Nat.not_le.mpr hr (mem_regRange.mp hmem)

/-- Settles O32: the load reads the addresses the store wrote, since the store keeps `I`. -/
theorem storeThenLoadRestoresTheRegisters : Obligations.StoreThenLoadRestoresTheRegisters := by
  intro s x w
  refine ⟨_, _, exec_ldMiVx x s, exec_ldVxMi x _, fun r hr => ?_⟩
  have hi : (storeRegs (regRange x) s).i = s.i := (storeRegs_kept _ s).index (by decide)
  have haddr : indexAddr { storeRegs (regRange x) s with v := w } r.toNat = indexAddr s r.toNat := congrArg (ea · r.toNat) hi
  rw [loadRegs_read _ (lt_16_of_mem_regRange x), if_pos (mem_regRange.mpr hr), haddr]
  exact readMem_storeRegs_of_le s hr

/-- Settles O33: a fetch reads two bytes, and each is the byte the store left. -/
theorem storesAreSeenByTheNextFetch : Obligations.StoresAreSeenByTheNextFetch := by
  intro s x p
  refine ⟨⟨_, exec_ldMiVx x s, (storeRegs_kept _ s).pc (by decide), ?registers⟩, ⟨_, exec_ldBVx x s, rfl, ?digits⟩⟩
  case registers =>
    exact congrArg₂ (· ++ ·) (readMem_storeRegs_eq_byteAfterStore x p s) (readMem_storeRegs_eq_byteAfterStore x (p + 1) s)
  case digits =>
    exact congrArg₂ (· ++ ·) (readMem_digits_eq_byteAfterDigits x p s) (readMem_digits_eq_byteAfterDigits x (p + 1) s)

end Sys2Proof.Proofs

/-!
PROOFS. Drawing (spec/45_display.md R252 to R254): DRW takes the exclusive or of the framebuffer and the sprite, and VF tells whether
the two met.
-/

namespace Sys2Proof.Proofs

open Sys2Proof.Machine

/-- What DRW does once its coordinates are latched: VF is cleared, and the rows are drawn (R252). -/
def drawSprite (a b : Nat) (n : BitVec 4) (s : State) : State :=
  drawRows (List.range n.toNat) a b (writeV vf (flagByte false) s)

theorem exec_drw (x y : Reg) (n : BitVec 4) (s : State) :
    exec (.drw x y n) s = .next (drawSprite (readV x s).toNat (readV y s).toNat n s) := rfl

/-- The sprite meets the screen: one of its one bits lies on a set pixel (R253). -/
def spriteMeets (s : State) (a b n : Nat) : Bool :=
  (List.range n).any fun row => (List.range 8).any fun col =>
    (readMem (indexAddr s row) s).getLsbD (7 - col) && pixel (a + col) (b + row) s

/-- Pixels are counted mod 64 and mod 32 (R250). -/
theorem pixel_mod (px py : Nat) (s : State) : pixel (px % 64) (py % 32) s = pixel px py s := by
  simp only [pixel, Nat.mod_mod]

/-- A sprite covers a pixel when one of its one bits lies there (R253). -/
theorem spriteCovers_iff (s : State) (a b n cx cy : Nat) :
    spriteCovers s a b n cx cy = true ↔ ∃ row < n, ∃ col < 8,
      (readMem (indexAddr s row) s).getLsbD (7 - col) = true ∧ (a + col) % 64 = cx ∧ (b + row) % 32 = cy := by
  simp only [spriteCovers, indexAddr, List.any_eq_true, List.mem_range, Bool.and_eq_true, beq_iff_eq, and_assoc]

/-- The sprite meets the screen exactly when it covers a set pixel (R253). -/
theorem spriteMeets_iff (s : State) (a b n : Nat) :
    spriteMeets s a b n = true ↔
      ∃ cx cy, cx < 64 ∧ cy < 32 ∧ pixel cx cy s = true ∧ spriteCovers s a b n cx cy = true := by
  simp only [spriteMeets, List.any_eq_true, List.mem_range, Bool.and_eq_true]
  constructor
  · rintro ⟨row, hrow, col, hcol, hbit, hpixel⟩
    rw [← pixel_mod] at hpixel
    exact ⟨(a + col) % 64, (b + row) % 32, Nat.mod_lt _ (by decide), Nat.mod_lt _ (by decide), hpixel,
      (spriteCovers_iff ..).mpr ⟨row, hrow, col, hcol, hbit, rfl, rfl⟩⟩
  · rintro ⟨cx, cy, -, -, hpixel, hcovers⟩
    obtain ⟨row, hrow, col, hcol, hbit, rfl, rfl⟩ := (spriteCovers_iff ..).mp hcovers
    rw [pixel_mod] at hpixel
    exact ⟨row, hrow, col, hcol, hbit, hpixel⟩

/-! A sprite of at most 15 rows draws each of them once, on a row of pixels of its own. -/

theorem lt_32_of_mem_range (n : BitVec 4) : ∀ k ∈ List.range n.toNat, k < 32 := by
  intro k hk
  have hn := n.isLt
  have hkn := List.mem_range.mp hk
  omega

/-- The framebuffer after a draw: the exclusive or of the framebuffer and the sprite (R254). -/
theorem pixel_drawSprite (a b : Nat) (n : BitVec 4) (s : State) {cx cy : Nat} (hcx : cx < 64) (hcy : cy < 32) :
    pixel cx cy (drawSprite a b n s) = (pixel cx cy s ^^ spriteCovers s a b n.toNat cx cy) := by
  rw [drawSprite, pixel_drawRows _ List.nodup_range (lt_32_of_mem_range n), Nat.mod_eq_of_lt hcx, Nat.mod_eq_of_lt hcy]
  simp only [pixel_writeV, readMem_writeV, spriteCovers, Bool.and_assoc]
  rfl

/-- The registers after a draw: VF tells whether the sprite met the screen, and every other register is as before (R253). -/
theorem readV_drawSprite (r : Reg) (a b : Nat) (n : BitVec 4) (s : State) :
    readV r (drawSprite a b n s) = if r = 0xF then flagByte (spriteMeets s a b n.toNat) else readV r s := by
  have hmeets : ((List.range n.toNat).any fun row => (List.range 8).any fun k =>
      (readMem (indexAddr (writeV vf (flagByte false) s) row) (writeV vf (flagByte false) s)).getLsbD (7 - k) &&
        pixel (a + k) (b + row) (writeV vf (flagByte false) s)) = spriteMeets s a b n.toNat := rfl
  rw [drawSprite, readV_drawRows _ List.nodup_range (lt_32_of_mem_range n), hmeets, readV_writeV]
  by_cases hr : r = vf
  · cases spriteMeets s a b n.toNat <;> simp [hr, vf, flagByte]
  · rw [if_neg (fun h => hr h.2), if_neg hr]
    exact (if_neg hr).symm

/-- A draw keeps every part but the registers and the screen. -/
theorem drawSprite_kept (a b : Nat) (n : BitVec 4) (s : State) : Kept [.regs, .screen] s (drawSprite a b n s) := by
  obtain ⟨v, fb, hdraw⟩ := drawRows_eq (List.range n.toNat) a b (writeV vf (flagByte false) s)
  rw [drawSprite, hdraw]
  constructor <;> simp [readMem]

/-- A draw leaves the sprite as it was: neither `I` nor memory is written. -/
theorem spriteCovers_drawSprite (a b : Nat) (n : BitVec 4) (s : State) (c d m cx cy : Nat) :
    spriteCovers (drawSprite a b n s) c d m cx cy = spriteCovers s c d m cx cy := by
  have hframe := drawSprite_kept a b n s
  simp only [spriteCovers, hframe.index (by decide), hframe.memory (by decide)]

/-- Settles O35: the pixels, VF and the frame of the sprite drawn at the latched coordinates. -/
theorem drawXorsTheSpriteAndReportsCollision : Obligations.DrawXorsTheSpriteAndReportsCollision := by
  intro s x y n
  refine ⟨_, exec_drw x y n s, fun cx cy hcx hcy => pixel_drawSprite _ _ n s hcx hcy, fun hmeets => ?hit, fun hmisses => ?miss,
    fun r hr => ?others, drawSprite_kept _ _ n s⟩
  case hit =>
    rw [readV_drawSprite, if_pos rfl, (spriteMeets_iff ..).mpr hmeets]
    rfl
  case miss =>
    have hno : spriteMeets s (readV x s).toNat (readV y s).toNat n.toNat = false := by
      rw [Bool.eq_false_iff, Ne, spriteMeets_iff]
      rintro ⟨cx, cy, hcx, hcy, hpixel, hcovers⟩
      rw [hmisses cx cy hcx hcy hpixel] at hcovers
      cases hcovers
    rw [readV_drawSprite, if_pos rfl, hno]
    rfl
  case others => rw [readV_drawSprite, if_neg (mt List.mem_singleton.mpr hr)]

/-- Settles O36: the second draw is of the same sprite at the same place, so it takes the exclusive or with the same set. -/
theorem drawingTwiceRestoresTheScreen : Obligations.DrawingTwiceRestoresTheScreen := by
  intro s x y n hx hy
  refine ⟨_, _, exec_drw x y n s, exec_drw x y n _, fun px py => ?_⟩
  have hcx : px % 64 < 64 := Nat.mod_lt _ (by decide)
  have hcy : py % 32 < 32 := Nat.mod_lt _ (by decide)
  rw [readV_drawSprite, if_neg hx, readV_drawSprite, if_neg hy, ← pixel_mod, ← pixel_mod px py s]
  rw [pixel_drawSprite _ _ n _ hcx hcy, pixel_drawSprite _ _ n s hcx hcy, spriteCovers_drawSprite, Bool.xor_assoc, Bool.xor_self,
    Bool.xor_false]

end Sys2Proof.Proofs
